-- ==== Sys2Proof/Word.lean ====
section
/-!
DEFINITION. The word types of the block: command words, register values, bytes and bit strings.
-/

namespace Sys2Proof

/-- A command word, `v[31:0]` of a host write to CMD (30_encoding.md R70). -/
abbrev Word := BitVec 32

/-- A value of the 64-bit host port, and of DIN and DOUT (10_state.md R21, R22, R35). -/
abbrev DWord := BitVec 64

/-- One byte of FRB or RXB (10_state.md R28, R29). -/
abbrev Byte := BitVec 8

/-- A bit string of 00_scope.md R9: position 0 is the head of the list, the most significant bit and the first on the wire. -/
abbrev BitString := List Bool

end Sys2Proof
end

