-- ==== Sys2Proof/Config.lean ====
section
/-!
DEFINITION. The implementation parameters of 00_scope.md R6, the identity constant of 10_state.md R35, and the two
parameters the spec leaves open.
-/

namespace Sys2Proof

/-- `PREAMBLE`, 8 bits (00_scope.md R6). -/
abbrev Config.preamble : Byte := 0xD3#8

/-- `POLY` without its x^24 term: the low 24 bits of 0x1864CFB (00_scope.md R6, 41_crc.md R140). -/
abbrev Config.polyLow : BitVec 24 := 0x864CFB#24

/-- `CRC_INIT` (00_scope.md R6). -/
abbrev Config.crcInit : BitVec 24 := 0#24

/-- Width of the reserved field after the preamble (42_envelope.md R160). -/
abbrev Config.reservedBits : Nat := 6

/-- `LENBITS`, the width of the length field (00_scope.md R6). -/
abbrev Config.lenBits : Nat := 10

/-- `MAXPAY` in bytes (00_scope.md R6). -/
abbrev Config.maxPay : Nat := 1023

/-- `TXCAP` in bits, `8 * MAXPAY` (00_scope.md R6). -/
abbrev Config.txCap : Nat := 8184

/-- `FRCAP` in bytes, `3 + MAXPAY + 3` (00_scope.md R6). -/
abbrev Config.frCap : Nat := 1029

/-- `RXCAP` in bytes (00_scope.md R6). -/
abbrev Config.rxCap : Nat := 1029

/-- `CURMAX`, the greatest value of the 14-bit cursor (00_scope.md R6). -/
abbrev Config.curMax : Nat := 16383

/-- `WMAX`, the widest field of one command (00_scope.md R6). -/
abbrev Config.wMax : Nat := 64

/-- `LIM_U`, the width limit of GETU (00_scope.md R6, 40_bitfield.md R116). -/
abbrev Config.limU : Nat := 32

/-- `LIM_S`, the width limit of GETS (00_scope.md R6, 40_bitfield.md R117). -/
abbrev Config.limS : Nat := 32

/-- `LIM_SM`, the width limit of GETSM (00_scope.md R6, 40_bitfield.md R118). -/
abbrev Config.limSM : Nat := 32

/-- `LIM_D`, the width limit of GETD (00_scope.md R6, 40_bitfield.md R119). -/
abbrev Config.limD : Nat := 64

/-- The one access width of the host port, in bits (20_memory.md R53). -/
abbrev Config.portBits : Nat := 64

/-- The constant the ID register reads as, ASCII "RFE1" (10_state.md R35). -/
abbrev Config.identity : DWord := 0x0000000052464531#64

/-- A byte order of a host bus. -/
inductive BusEndian where
  | big
  | little
deriving DecidableEq, Repr, Inhabited

/-- `HOST_BUS_ENDIAN`, left open by the spec (20_memory.md R51, U17). No rule reads it, so no definition of the model does
(DESIGN CHOICE, log 5). -/
opaque Config.hostBusEndian : BusEndian

/-- `RFE_BASE`, the platform's base address of the register window, left open by the spec (20_memory.md R56, U18). Offsets of the
model are relative to it and no rule reads it (DESIGN CHOICE, log 5). -/
opaque Config.rfeBase : Nat

end Sys2Proof
end

