-- ==== Sys2Proof/Syntax.lean ====
section
/-!
DEFINITION. The 23 commands of 30_encoding.md R79, one constructor for each row of spec/opcode_table.json, with the
operands their formats carry, and their assembler text (R83).
-/

namespace Sys2Proof

/-- A command of the block with its operands (30_encoding.md R79). A width operand `w` is the field width 1 to 64, not WM1
(R74, R83); the other immediates have the width of their field (R75 to R77). -/
inductive Instr where
  /-- NOP, format N (43_control.md R180). -/
  | nop
  /-- TXCLR, format N (40_bitfield.md R105). -/
  | txclr
  /-- RXCLR, format N (40_bitfield.md R112). -/
  | rxclr
  /-- DCLR, format N (43_control.md R181). -/
  | dclr
  /-- CRCCLR, format N (41_crc.md R142). -/
  | crcclr
  /-- PUT w, format W (40_bitfield.md R101). -/
  | put (w : Nat)
  /-- PUTSM w, format W (40_bitfield.md R102). -/
  | putsm (w : Nat)
  /-- PUTSS w, format W (40_bitfield.md R103). -/
  | putss (w : Nat)
  /-- PUTSU w, format W (40_bitfield.md R104). -/
  | putsu (w : Nat)
  /-- PACK, format N (40_bitfield.md R106). -/
  | pack
  /-- GETU w, format W (40_bitfield.md R116). -/
  | getu (w : Nat)
  /-- GETS w, format W (40_bitfield.md R117). -/
  | gets (w : Nat)
  /-- GETSM w, format W (40_bitfield.md R118). -/
  | getsm (w : Nat)
  /-- GETD w, format W (40_bitfield.md R119). -/
  | getd (w : Nat)
  /-- SEEK pos, format S (40_bitfield.md R114). -/
  | seek (pos : BitVec 14)
  /-- RXPUT, format N (40_bitfield.md R111). -/
  | rxput
  /-- LOOP, format N (40_bitfield.md R113). -/
  | loop
  /-- FRRD idx, format F (40_bitfield.md R120). -/
  | frrd (idx : BitVec 11)
  /-- CRCB w, format W (41_crc.md R143). -/
  | crcb (w : Nat)
  /-- CRCTX, format N (41_crc.md R144). -/
  | crctx
  /-- VERIFY, format N (41_crc.md R145). -/
  | verify
  /-- BUILD, format N (42_envelope.md R161). -/
  | build
  /-- PARSE elen, emsg, format P (42_envelope.md R163). -/
  | parse (elen : BitVec 10) (emsg : BitVec 12)
deriving DecidableEq, Repr

/-- The mnemonic of the command's row (30_encoding.md R79). -/
def Instr.mnemonic : Instr → String
  | .nop => "NOP"
  | .txclr => "TXCLR"
  | .rxclr => "RXCLR"
  | .dclr => "DCLR"
  | .crcclr => "CRCCLR"
  | .put _ => "PUT"
  | .putsm _ => "PUTSM"
  | .putss _ => "PUTSS"
  | .putsu _ => "PUTSU"
  | .pack => "PACK"
  | .getu _ => "GETU"
  | .gets _ => "GETS"
  | .getsm _ => "GETSM"
  | .getd _ => "GETD"
  | .seek _ => "SEEK"
  | .rxput => "RXPUT"
  | .loop => "LOOP"
  | .frrd _ => "FRRD"
  | .crcb _ => "CRCB"
  | .crctx => "CRCTX"
  | .verify => "VERIFY"
  | .build => "BUILD"
  | .parse _ _ => "PARSE"

/-- The operands as the assembler writes them: a width as w, PARSE with ELEN first (30_encoding.md R83). -/
def Instr.operands : Instr → List Nat
  | .put w | .putsm w | .putss w | .putsu w => [w]
  | .getu w | .gets w | .getsm w | .getd w | .crcb w => [w]
  | .seek pos => [pos.toNat]
  | .frrd idx => [idx.toNat]
  | .parse elen emsg => [elen.toNat, emsg.toNat]
  | .nop | .txclr | .rxclr | .dclr | .crcclr | .pack => []
  | .rxput | .loop | .crctx | .verify | .build => []

/-- The command's assembler line with decimal operands, as in `PARSE 19, 1005` (30_encoding.md R83). -/
def Instr.asmText (i : Instr) : String :=
  match i.operands with
  | [] => i.mnemonic
  | ops => i.mnemonic ++ " " ++ String.intercalate ", " (ops.map toString)

end Sys2Proof
end

