-- ==== Sys2Proof/WellFormed.lean ====
section
/-!
DEFINITION. Which commands have an encoding: a width operand lies in 1 to 64 (30_encoding.md R74, R83). Every other
operand fills its field, so its type says all there is to say.
-/

namespace Sys2Proof

/-- The width check of format W: `1 ≤ w ≤ 64`; width 0 cannot be encoded (30_encoding.md R74). -/
def widthOk (w : Nat) : Bool := 1 ≤ w && w ≤ Config.wMax

/-- The command has an encoding (30_encoding.md R83: an operand outside its field's range is an assembly error). -/
def Instr.wellFormed : Instr → Bool
  | .put w => widthOk w
  | .putsm w => widthOk w
  | .putss w => widthOk w
  | .putsu w => widthOk w
  | .getu w => widthOk w
  | .gets w => widthOk w
  | .getsm w => widthOk w
  | .getd w => widthOk w
  | .crcb w => widthOk w
  | .seek _ => true
  | .frrd _ => true
  | .parse _ _ => true
  | .nop => true
  | .txclr => true
  | .rxclr => true
  | .dclr => true
  | .crcclr => true
  | .pack => true
  | .rxput => true
  | .loop => true
  | .crctx => true
  | .verify => true
  | .build => true

end Sys2Proof
end

