-- ==== Sys2Proof/Decode.lean ====
section
/-!
DEFINITION. The decoder of 30_encoding.md R80 over the opcode map of R79, and after it the encoder written from the
formats of R72. Decoding is total: a word that is no command is rejected by name (R81).
-/

namespace Sys2Proof

/-- Why a word is no command (30_encoding.md R81). -/
inductive Reject where
  /-- OP is no row's opcode. -/
  | unassignedOpcode (op : BitVec 6)
  /-- OP is assigned and a reserved bit of its format is 1. -/
  | reservedBit (op : BitVec 6)
deriving DecidableEq, Repr

/-- What a 32-bit word decodes to (30_encoding.md R80). -/
inductive Decoded where
  | command (i : Instr)
  | illegal (why : Reject)
deriving DecidableEq, Repr

/-- The opcode field OP, bits [31:26] (30_encoding.md R71). -/
def opOf (v : Word) : BitVec 6 := v.extractLsb' 26 6

/-- The width operand `w = WM1 + 1` of format W, WM1 in bits [25:20] (30_encoding.md R74). -/
def widthOf (v : Word) : Nat := (v.extractLsb' 20 6).toNat + 1

/-- POS of format S, bits [13:0] (30_encoding.md R75). -/
def posOf (v : Word) : BitVec 14 := v.extractLsb' 0 14

/-- IDX of format F, bits [10:0] (30_encoding.md R76). -/
def idxOf (v : Word) : BitVec 11 := v.extractLsb' 0 11

/-- ELEN of format P, bits [25:16] (30_encoding.md R77). -/
def elenOf (v : Word) : BitVec 10 := v.extractLsb' 16 10

/-- EMSG of format P, bits [15:4] (30_encoding.md R77). -/
def emsgOf (v : Word) : BitVec 12 := v.extractLsb' 4 12

/-- One row of the opcode map: OP, match, mask, and the command with the fields of the row's format. -/
structure OpRow where
  op : BitVec 6
  fixed : Word
  mask : Word
  build : Word → Instr

/-- The opcode map, row by row (30_encoding.md R79). -/
def opRows : List OpRow := [
  ⟨0x00#6, 0x00000000#32, 0xFFFFFFFF#32, fun _ => .nop⟩,
  ⟨0x01#6, 0x04000000#32, 0xFFFFFFFF#32, fun _ => .txclr⟩,
  ⟨0x02#6, 0x08000000#32, 0xFFFFFFFF#32, fun _ => .rxclr⟩,
  ⟨0x03#6, 0x0C000000#32, 0xFFFFFFFF#32, fun _ => .dclr⟩,
  ⟨0x04#6, 0x10000000#32, 0xFFFFFFFF#32, fun _ => .crcclr⟩,
  ⟨0x08#6, 0x20000000#32, 0xFC0FFFFF#32, fun v => .put (widthOf v)⟩,
  ⟨0x09#6, 0x24000000#32, 0xFC0FFFFF#32, fun v => .putsm (widthOf v)⟩,
  ⟨0x0A#6, 0x28000000#32, 0xFC0FFFFF#32, fun v => .putss (widthOf v)⟩,
  ⟨0x0B#6, 0x2C000000#32, 0xFC0FFFFF#32, fun v => .putsu (widthOf v)⟩,
  ⟨0x0C#6, 0x30000000#32, 0xFFFFFFFF#32, fun _ => .pack⟩,
  ⟨0x10#6, 0x40000000#32, 0xFC0FFFFF#32, fun v => .getu (widthOf v)⟩,
  ⟨0x11#6, 0x44000000#32, 0xFC0FFFFF#32, fun v => .gets (widthOf v)⟩,
  ⟨0x12#6, 0x48000000#32, 0xFC0FFFFF#32, fun v => .getsm (widthOf v)⟩,
  ⟨0x13#6, 0x4C000000#32, 0xFC0FFFFF#32, fun v => .getd (widthOf v)⟩,
  ⟨0x14#6, 0x50000000#32, 0xFFFFC000#32, fun v => .seek (posOf v)⟩,
  ⟨0x15#6, 0x54000000#32, 0xFFFFFFFF#32, fun _ => .rxput⟩,
  ⟨0x16#6, 0x58000000#32, 0xFFFFFFFF#32, fun _ => .loop⟩,
  ⟨0x17#6, 0x5C000000#32, 0xFFFFF800#32, fun v => .frrd (idxOf v)⟩,
  ⟨0x18#6, 0x60000000#32, 0xFC0FFFFF#32, fun v => .crcb (widthOf v)⟩,
  ⟨0x19#6, 0x64000000#32, 0xFFFFFFFF#32, fun _ => .crctx⟩,
  ⟨0x1A#6, 0x68000000#32, 0xFFFFFFFF#32, fun _ => .verify⟩,
  ⟨0x20#6, 0x80000000#32, 0xFFFFFFFF#32, fun _ => .build⟩,
  ⟨0x21#6, 0x84000000#32, 0xFC00000F#32, fun v => .parse (elenOf v) (emsgOf v)⟩]

/-- The decoder (30_encoding.md R80): find the row by OP, then check match under mask. -/
def decode (v : Word) : Decoded :=
  match opRows.find? (fun r => r.op == opOf v) with
  | none => .illegal (.unassignedOpcode (opOf v))
  | some r => if v &&& r.mask = r.fixed then .command (r.build v) else .illegal (.reservedBit (opOf v))

/-- A word of format N (30_encoding.md R72): OP [31:26], reserved [25:0]. -/
def formatN (op : BitVec 6) : Word := op ++ 0#26

/-- A word of format W (30_encoding.md R72, R74): OP [31:26], WM1 = w - 1 in [25:20], reserved [19:0]. -/
def formatW (op : BitVec 6) (w : Nat) : Word := op ++ BitVec.ofNat 6 (w - 1) ++ 0#20

/-- A word of format S (30_encoding.md R72, R75): OP [31:26], reserved [25:14], POS [13:0]. -/
def formatS (op : BitVec 6) (pos : BitVec 14) : Word := op ++ 0#12 ++ pos

/-- A word of format F (30_encoding.md R72, R76): OP [31:26], reserved [25:11], IDX [10:0]. -/
def formatF (op : BitVec 6) (idx : BitVec 11) : Word := op ++ 0#15 ++ idx

/-- A word of format P (30_encoding.md R72, R77): OP [31:26], ELEN [25:16], EMSG [15:4], reserved [3:0]. -/
def formatP (op : BitVec 6) (elen : BitVec 10) (emsg : BitVec 12) : Word := op ++ elen ++ emsg ++ 0#4

/-- The word of a command (30_encoding.md R72, R79). -/
def encode : Instr → Word
  | .nop => formatN 0x00#6
  | .txclr => formatN 0x01#6
  | .rxclr => formatN 0x02#6
  | .dclr => formatN 0x03#6
  | .crcclr => formatN 0x04#6
  | .put w => formatW 0x08#6 w
  | .putsm w => formatW 0x09#6 w
  | .putss w => formatW 0x0A#6 w
  | .putsu w => formatW 0x0B#6 w
  | .pack => formatN 0x0C#6
  | .getu w => formatW 0x10#6 w
  | .gets w => formatW 0x11#6 w
  | .getsm w => formatW 0x12#6 w
  | .getd w => formatW 0x13#6 w
  | .seek pos => formatS 0x14#6 pos
  | .rxput => formatN 0x15#6
  | .loop => formatN 0x16#6
  | .frrd idx => formatF 0x17#6 idx
  | .crcb w => formatW 0x18#6 w
  | .crctx => formatN 0x19#6
  | .verify => formatN 0x1A#6
  | .build => formatN 0x20#6
  | .parse elen emsg => formatP 0x21#6 elen emsg

/-- The assembler's word for a command: none for an operand outside its field's range (30_encoding.md R83). -/
def assemble (i : Instr) : Option Word := if i.wellFormed then some (encode i) else none

/-- The command the decoder reads from an instruction whose bits are `w`, numbered as spec/opcode_table.json numbers them. A
command is one 32-bit word delivered whole (30_encoding.md R70), so the word is the bits themselves; `none` where it is illegal. -/
def decodeTableWord (nbits w : Nat) : Option Instr :=
  match decode (BitVec.ofNat 32 (w % 2 ^ nbits)) with
  | .command i => some i
  | .illegal _ => none

end Sys2Proof
end

