-- ==== Sys2Proof/Machine/State.lean ====
section
/-!
DEFINITION. The state of one RFE instance (10_state.md R20) with the host's side of its port, the state after reset
(R37), the outcomes a step can stop with, and one named update for each register.
-/

namespace Sys2Proof.Machine

/-- A byte buffer: the bytes listed by address, every unlisted byte reading as `Memory.blank`. -/
abbrev Memory := List Host.Cell

/-- What a byte nothing has written holds. The spec leaves it unspecified and no command reads it (10_state.md R34, R37, U11);
DESIGN CHOICE, log 3. -/
def Memory.blank : Byte := 0#8

/-- The one canonical form of a buffer: addresses strictly rising and no entry equal to the blank byte, so that equal
buffers are equal data. -/
abbrev Memory.wf (m : Memory) : Prop :=
  m.Pairwise (fun c d => c.1 < d.1) ∧ ∀ c ∈ m, c.2 ≠ Memory.blank

/-- One action at the block's boundary: what the host does on the register port (20_memory.md R55), or the platform's reset input
(70_reset_and_hazards.md R230; log 8). `bits` is the width of the access; the port defines 64 only (20_memory.md R53).
`offset` is the byte offset from RFE_BASE (10_state.md R35, 20_memory.md R56). -/
inductive HostAction where
  | write (bits offset : Nat) (v : DWord)
  | read (bits offset : Nat)
  | reset
deriving DecidableEq, Repr

/-- The state. The first thirteen fields are the block's own, exactly the table of 10_state.md R20; the last three are the
host's side of the port, kept by the model (10_state.md R32; logs 1 and 2). -/
structure State where
  /-- DIN, written by the host only (R21). -/
  din : DWord
  /-- DOUT, the result register (R22). -/
  dout : DWord
  /-- STATUS: RC in [3:0], WWIDTH [8], WRANGE [9], WOVF [10], WEOF [11], the rest reserved (R23). -/
  status : BitVec 32
  /-- CRC, the checksum register (R26). -/
  crc : BitVec 24
  /-- TXB, the payload bit string, first bit first (R27). -/
  txb : BitString
  /-- TXLEN, its length (R27). -/
  txlen : BitVec 14
  /-- FRB, the output byte buffer (R28). -/
  frb : Memory
  /-- FRLEN, the count of its valid bytes (R28). -/
  frlen : BitVec 11
  /-- RXB, the input byte buffer (R29). -/
  rxb : Memory
  /-- RXLEN, the count of its valid bytes (R29). -/
  rxlen : BitVec 11
  /-- CUR, the bit position of the next GET (R30). -/
  cur : BitVec 14
  /-- MSG, the message number of the last frame that parsed (R31). -/
  msg : BitVec 12
  /-- PLEN, the length field of the last frame that parsed (R31). -/
  plen : BitVec 10
  /-- The host's actions in their order of issue (R32, R58); the model's own field, log 1. -/
  script : List HostAction
  /-- The index of the next action: the pc a model keeps by R32; the model's own field, log 1. -/
  pc : Nat
  /-- What each host read returned, oldest first (R58); the model's own field, log 2. -/
  replies : List DWord
deriving DecidableEq, Repr

/-- The faults of the block: there are none. "Every command step is total: it always yields a next state and never faults or
blocks" (60_exceptions.md R217; R200; 93_implementation_defined.md part A). Nothing raises one; safe. -/
inductive Fault where
deriving DecidableEq, Repr

/-- The refusals of the model. -/
inductive Refusal where
  /-- Raised by a dispatch arm whose command has no meaning yet; no arm raises it. Safe: the run stops. -/
  | notModelled (mnemonic : String)
  /-- Raised by the host port for an access that is not 64 bits wide: "A model refuses a host access of any other width: it has no
  step" (20_memory.md R53, U16; log 4). Safe: the run stops. -/
  | accessWidth (bits : Nat)
deriving DecidableEq, Repr

/-- The state after reset: every register at the value of 10_state.md R37, and no host action issued yet (R231, log 1). -/
def State.reset : State where
  din := 0#64
  dout := 0#64
  status := 0#32
  crc := 0#24
  txb := []
  txlen := 0#14
  frb := []
  frlen := 0#11
  rxb := []
  rxlen := 0#11
  cur := 0#14
  msg := 0#12
  plen := 0#10
  script := []
  pc := 0
  replies := []

/-- DIN ← v. -/
def State.setDin (s : State) (v : DWord) : State := { s with din := v }

/-- DOUT ← v. -/
def State.setDout (s : State) (v : DWord) : State := { s with dout := v }

/-- STATUS ← v. -/
def State.setStatus (s : State) (v : BitVec 32) : State := { s with status := v }

/-- CRC ← v. -/
def State.setCrc (s : State) (v : BitVec 24) : State := { s with crc := v }

/-- TXB ← b and TXLEN ← n. -/
def State.setTx (s : State) (b : BitString) (n : BitVec 14) : State := { s with txb := b, txlen := n }

/-- FRB ← m and FRLEN ← n. -/
def State.setFr (s : State) (m : Memory) (n : BitVec 11) : State := { s with frb := m, frlen := n }

/-- RXB ← m and RXLEN ← n. -/
def State.setRx (s : State) (m : Memory) (n : BitVec 11) : State := { s with rxb := m, rxlen := n }

/-- CUR ← v. -/
def State.setCur (s : State) (v : BitVec 14) : State := { s with cur := v }

/-- MSG ← m and PLEN ← l. -/
def State.setParsed (s : State) (m : BitVec 12) (l : BitVec 10) : State := { s with msg := m, plen := l }

/-- Past the host action just taken (10_state.md R32). -/
def State.advance (s : State) : State := { s with pc := s.pc + 1 }

/-- The host has read v (20_memory.md R58). -/
def State.reply (s : State) (v : DWord) : State := { s with replies := s.replies ++ [v] }

end Sys2Proof.Machine
end

