-- ==== Sys2Proof/Machine/Flags.lean ====
section
/-!
DEFINITION. The STATUS register: result codes (10_state.md R24), the sticky warning flags (R23, R25), and the ways
a command changes them (00_scope.md R11, 60_exceptions.md R201).
-/

namespace Sys2Proof.Machine

/-- The result codes of STATUS.RC (10_state.md R24, 60_exceptions.md R202). -/
inductive ResultCode where
  | ok
  | checksum
  | length
  | msgtype
  | short
  | illegal
deriving DecidableEq, Repr

/-- The number of a result code (10_state.md R24). -/
def resultNumber : ResultCode → BitVec 32
  | .ok => 0#32
  | .checksum => 1#32
  | .length => 2#32
  | .msgtype => 3#32
  | .short => 4#32
  | .illegal => 5#32

/-- The warning flags of STATUS (10_state.md R23, 60_exceptions.md R204). -/
inductive Warning where
  | wwidth
  | wrange
  | wovf
  | weof
deriving DecidableEq, Repr

/-- The STATUS bit of a warning flag (10_state.md R23). -/
def warningMask : Warning → BitVec 32
  | .wwidth => 0x100#32
  | .wrange => 0x200#32
  | .wovf => 0x400#32
  | .weof => 0x800#32

/-- STATUS.RC, bits [3:0] (10_state.md R23). -/
def rcOf (st : BitVec 32) : BitVec 4 := st.extractLsb' 0 4

/-- Whether a warning flag of STATUS is set (10_state.md R23). -/
def warningSet (st : BitVec 32) (f : Warning) : Bool := st &&& warningMask f != 0#32

/-- STATUS with RC ← code and every other bit kept (10_state.md R23, 60_exceptions.md R201). -/
def statusWithRc (st : BitVec 32) (c : ResultCode) : BitVec 32 := (st &&& 0xFFFFFFF0#32) ||| resultNumber c

/-- STATUS with the warning flag f set (00_scope.md R11, 10_state.md R25). -/
def statusWithWarning (st : BitVec 32) (f : Warning) : BitVec 32 := st ||| warningMask f

/-- STATUS with the four warning flags cleared (43_control.md R181). -/
def statusNoWarnings (st : BitVec 32) : BitVec 32 := st &&& 0xFFFFF0FF#32

/-- STATUS.RC ← code. -/
def setRc (c : ResultCode) (s : State) : State := s.setStatus (statusWithRc s.status c)

/-- `warn(f)`: set the flag and go on (00_scope.md R11). -/
def warn (f : Warning) (s : State) : State := s.setStatus (statusWithWarning s.status f)

/-- `if c: warn(f)`. -/
def warnIf (c : Bool) (f : Warning) (s : State) : State := if c then warn f s else s

/-- Clear the four warning flags (43_control.md R181). -/
def clearWarnings (s : State) : State := s.setStatus (statusNoWarnings s.status)

end Sys2Proof.Machine
end

