-- ==== Sys2Proof/Machine/Bits.lean ====
section
/-!
DEFINITION. Bit strings: the notation of 00_scope.md R9 and R10, in the bit order of 20_memory.md R49.
-/

namespace Sys2Proof.Machine

/-- `bits_w(v)`: the w low bits of v, most significant first (00_scope.md R9). -/
def bitsOf : Nat → Nat → BitString
  | 0, _ => []
  | w + 1, v => v.testBit w :: bitsOf w v

/-- `val(S)`: the number whose binary digits, most significant first, are S (00_scope.md R9). -/
def valOf (S : BitString) : Nat := S.foldl (fun n b => 2 * n + b.toNat) 0

/-- `S⟨p..p+w-1⟩`: the w bits from position p (00_scope.md R9). -/
def slice (p w : Nat) (S : BitString) : BitString := (S.drop p).take w

/-- `0^k` (00_scope.md R9). -/
def zeros (k : Nat) : BitString := List.replicate k false

/-- `ceil(L / 8)` (00_scope.md R8). -/
def ceilBytes (L : Nat) : Nat := (L + 7) / 8

/-- `bytes_to_bits(B)`: each byte as 8 bits, first byte first (00_scope.md R10, 20_memory.md R48). -/
def bytesToBits (B : List Byte) : BitString := B.flatMap (fun b => bitsOf 8 b.toNat)

/-- The first n bytes of S, 8 bits at a time from position 0 (00_scope.md R10). -/
def bytesOf : Nat → BitString → List Byte
  | 0, _ => []
  | n + 1, S => BitVec.ofNat 8 (valOf (S.take 8)) :: bytesOf n (S.drop 8)

/-- S left-padded with zeros to whole bytes, so that the first byte holds the remainder bits right-justified (00_scope.md R10). -/
def leftPadded (S : BitString) : BitString := zeros (8 * ceilBytes S.length - S.length) ++ S

/-- `pack(S)`, the source's binary_string_to_packed_bytes (00_scope.md R10). -/
def packBits (S : BitString) : List Byte := bytesOf (ceilBytes S.length) (leftPadded S)

end Sys2Proof.Machine
end

