-- ==== Sys2Proof/Machine/Operands.lean ====
section
/-!
DEFINITION. The operand forms: how a PUT command makes a field from DIN (40_bitfield.md R101 to R104) and how a GET
command reads a field as a 64-bit result (R116 to R119). All arithmetic is exact (00_scope.md R8, 40_bitfield.md R122).
-/

namespace Sys2Proof.Machine

/-- A field a PUT command appends, and whether its operand was clamped. -/
structure Field where
  bits : BitString
  clamped : Bool
deriving DecidableEq, Repr

/-- `bits_w(DIN)`, DIN read as raw bits (40_bitfield.md R101, 41_crc.md R143). -/
def rawBits (w : Nat) (din : DWord) : BitString := bitsOf w din.toNat

/-- The field of PUT: the raw low w bits, never clamped (40_bitfield.md R101). -/
def rawField (w : Nat) (din : DWord) : Field := ⟨rawBits w din, false⟩

/-- The field of PUTSM: a sign bit, 1 for negative, and the magnitude saturated at `2^(w-1) - 1` (40_bitfield.md R102). -/
def signMagnitudeField (w : Nat) (din : DWord) : Field :=
  let m := din.toInt.natAbs
  let mmax := 2 ^ (w - 1) - 1
  ⟨decide (din.toInt < 0) :: bitsOf (w - 1) (min m mmax), decide (mmax < m)⟩

/-- The value x clamped to `[lo, hi]` (40_bitfield.md R103, R104). -/
def clamp (lo hi x : Int) : Int := max lo (min hi x)

/-- The field of a clamped operand: the w low bits of `u64(c)`, clamped where c differs from x. -/
def clampedField (w : Nat) (lo hi x : Int) : Field :=
  ⟨bitsOf w (BitVec.ofInt 64 (clamp lo hi x)).toNat, decide (clamp lo hi x ≠ x)⟩

/-- The field of PUTSS: two's complement, clamped to `±(2^(w-1) - 1)` (40_bitfield.md R103). -/
def symmetricField (w : Nat) (din : DWord) : Field :=
  clampedField w (-(2 ^ (w - 1) - 1)) (2 ^ (w - 1) - 1) din.toInt

/-- The field of PUTSU: unsigned, clamped to `[0, 2^w - 1]` (40_bitfield.md R104). -/
def unsignedField (w : Nat) (din : DWord) : Field :=
  clampedField w 0 (2 ^ w - 1) din.toInt

/-- `zext_64(val(S))` (40_bitfield.md R116). -/
def readUnsigned (S : BitString) : DWord := BitVec.ofNat 64 (valOf S)

/-- `u64(val(S) - S⟨0⟩ * 2^w)` for the w bits of S (40_bitfield.md R117, R119). -/
def readTwosComplement (S : BitString) : DWord :=
  BitVec.ofInt 64 ((valOf S : Int) - (if S.headD false then 2 ^ S.length else 0))

/-- The magnitude `val(S⟨1..w-1⟩)`, negated where the sign bit S⟨0⟩ is 1 (40_bitfield.md R118). -/
def readSignMagnitude (S : BitString) : DWord :=
  let m : Int := valOf S.tail
  BitVec.ofInt 64 (if S.headD false then -m else m)

end Sys2Proof.Machine
end

