-- ==== Sys2Proof/Machine/Ops.lean ====
section
/-!
DEFINITION. The shared operations of the commands: byte buffers (00_scope.md R11), the CRC update (41_crc.md R140), append
(40_bitfield.md R100), the field read (R115), and the two ways a command ends (00_scope.md R11, R12). The block has no trap: its
exception entry is `raiseResult`, which saves nothing and redirects nothing, and there is no return from it
(60_exceptions.md R200, R206, R207).
-/

namespace Sys2Proof.Machine

/-- What a command answers. -/
abbrev Result := Host.Outcome State Fault Refusal

/-- `MemRead(B, a, 1)` (00_scope.md R11). -/
def Memory.read : Memory → Nat → Byte
  | [], _ => Memory.blank
  | c :: m, a => if c.1 = a then c.2 else Memory.read m a

/-- `MemWrite(B, a, 1, v)` (00_scope.md R11), keeping the canonical form: writing the blank byte removes the entry. -/
def Memory.write : Memory → Nat → Byte → Memory
  | [], a, v => if v = Memory.blank then [] else [(a, v)]
  | c :: m, a, v =>
    if a < c.1 then (if v = Memory.blank then c :: m else (a, v) :: c :: m)
    else if a = c.1 then (if v = Memory.blank then m else (a, v) :: m)
    else c :: Memory.write m a v

/-- The n bytes from address a. -/
def Memory.readBytes (m : Memory) (a : Nat) : Nat → List Byte
  | 0 => []
  | n + 1 => m.read a :: Memory.readBytes m (a + 1) n

/-- The bytes of a list written from address a on, in order. -/
def Memory.writeBytes (m : Memory) (a : Nat) : List Byte → Memory
  | [] => m
  | b :: bs => Memory.writeBytes (m.write a b) (a + 1) bs

/-- The valid bytes `FRB[0..FRLEN-1]` (10_state.md R28). -/
def frBytes (s : State) : List Byte := s.frb.readBytes 0 s.frlen.toNat

/-- The valid bytes `RXB[0..RXLEN-1]` (10_state.md R29). -/
def rxBytes (s : State) : List Byte := s.rxb.readBytes 0 s.rxlen.toNat

/-- `RXBITS`, the bit view of RXB (20_memory.md R48). -/
def rxBits (s : State) : BitString := bytesToBits (rxBytes s)

/-- One bit of the CRC-24Q update (41_crc.md R140). TESTED by the spec on the source's frame (95_test_vectors.md V1),
log 9. -/
def crcBit (c : BitVec 24) (b : Bool) : BitVec 24 :=
  if (c.msb ^^ b) = true then (c <<< 1) ^^^ Config.polyLow else c <<< 1

/-- `crc24q(c, S)` (41_crc.md R140). -/
def crc24q (c : BitVec 24) (S : BitString) : BitVec 24 := S.foldl crcBit c

/-- The checksum of a received frame: crc24q of everything before its last 3 bytes (41_crc.md R145, 42_envelope.md R163 step 1). -/
def rxComputedCrc (s : State) : BitVec 24 :=
  crc24q Config.crcInit (bytesToBits (s.rxb.readBytes 0 (s.rxlen.toNat - 3)))

/-- The last 3 bytes of a received frame as one number, big-endian (41_crc.md R145). -/
def rxTrailingCrc (s : State) : BitVec 24 :=
  s.rxb.read (s.rxlen.toNat - 3) ++ s.rxb.read (s.rxlen.toNat - 2) ++ s.rxb.read (s.rxlen.toNat - 1)

/-- A command completes: RC ← OK is its last effect (00_scope.md R12). -/
def complete (s : State) : Result := .next (setRc .ok s)

/-- `raise Result(code)`: the command ends with RC ← code (00_scope.md R11, 60_exceptions.md R206). -/
def raiseResult (c : ResultCode) (s : State) : Result := .next (setRc c s)

/-- `append(S)`: the leading bits of S that fit, WOVF when some do not (40_bitfield.md R100). -/
def appendTx (S : BitString) (s : State) : State :=
  let room := Config.txCap - s.txlen.toNat
  let kept := S.take room
  (warnIf (decide (room < S.length)) .wovf s).setTx (s.txb ++ kept) (s.txlen + BitVec.ofNat 14 kept.length)

/-- The body shared by the PUT commands: WRANGE where the operand was clamped, then append (40_bitfield.md R101 to R104). -/
def putField (f : Field) (s : State) : Result := complete (appendTx f.bits (warnIf f.clamped .wrange s))

/-- The cursor after a GET of width w: `min(CUR + w, CURMAX)` (40_bitfield.md R115). -/
def advancedCur (cur : BitVec 14) (w : Nat) : BitVec 14 := BitVec.ofNat 14 (min (cur.toNat + w) Config.curMax)

/-- `getfield(w, LIM)` followed by the GET's use of its bits, `conv` (40_bitfield.md R115 to R119): over the limit WWIDTH and DOUT ← 0,
past the end WEOF and DOUT ← 0, else DOUT ← conv(S); the cursor advances in every case. -/
def getField (w lim : Nat) (conv : BitString → DWord) (s : State) : Result :=
  let t :=
    if lim < w then (warn .wwidth s).setDout 0#64
    else if 8 * s.rxlen.toNat < s.cur.toNat + w then (warn .weof s).setDout 0#64
    else s.setDout (conv (slice s.cur.toNat w (rxBits s)))
  complete (t.setCur (advancedCur s.cur w))

end Sys2Proof.Machine
end

