-- ==== Sys2Proof/Machine/Control.lean ====
section
/-!
DEFINITION. The control commands NOP and DCLR and the illegal command word (43_control.md).
-/

namespace Sys2Proof.Machine

/-- NOP (43_control.md R180). -/
def execNop (s : State) : Result := complete s

/-- DCLR (43_control.md R181). -/
def execDclr (s : State) : Result := complete (clearWarnings s)

/-- An illegal command word: RC ← ILLEGAL and no other effect (43_control.md R182). -/
def illegalCommand (s : State) : Result := raiseResult .illegal s

end Sys2Proof.Machine
end

