-- ==== Sys2Proof/Machine/Crc.lean ====
section
/-!
DEFINITION. The CRC-24Q commands (41_crc.md).
-/

namespace Sys2Proof.Machine

/-- CRCCLR (41_crc.md R142). -/
def execCrcclr (s : State) : Result := complete (s.setCrc Config.crcInit)

/-- CRCB w: feed the low w bits of DIN, DIN[w-1] first (41_crc.md R143). -/
def execCrcb (w : Nat) (s : State) : Result := complete (s.setCrc (crc24q s.crc (rawBits w s.din)))

/-- CRCTX: the CRC of the payload buffer, from the initial value (41_crc.md R144). -/
def execCrctx (s : State) : Result := complete (s.setCrc (crc24q Config.crcInit s.txb))

/-- VERIFY: SHORT, then CHECKSUM, else OK; CRC is not written (41_crc.md R145). -/
def execVerify (s : State) : Result :=
  if s.rxlen.toNat < 3 then raiseResult .short s
  else if rxComputedCrc s ≠ rxTrailingCrc s then raiseResult .checksum s
  else complete s

end Sys2Proof.Machine
end

