-- ==== Sys2Proof/Machine/Envelope.lean ====
section
/-!
DEFINITION. The frame enveloper: BUILD and PARSE (42_envelope.md).
-/

namespace Sys2Proof.Machine

/-- The header bits H of a frame with n payload bytes: preamble, reserved zeros, length field (42_envelope.md R160, R161). -/
def headerBits (n : Nat) : BitString :=
  bitsOf 8 Config.preamble.toNat ++ zeros Config.reservedBits ++ bitsOf Config.lenBits n

/-- The payload bits P: TXB right-padded with zeros to n bytes (42_envelope.md R161 step 1). -/
def paddedPayload (s : State) : BitString :=
  s.txb ++ zeros (8 * ceilBytes s.txlen.toNat - s.txlen.toNat)

/-- The bits H ++ P that BUILD packs and checks (42_envelope.md R161 steps 2 and 3). -/
def frameBody (s : State) : BitString := headerBits (ceilBytes s.txlen.toNat) ++ paddedPayload s

/-- The three bytes of a checksum, CRC[23:16] first (42_envelope.md R160). -/
def crcBytes (c : BitVec 24) : List Byte := [c.extractLsb' 16 8, c.extractLsb' 8 8, c.extractLsb' 0 8]

/-- BUILD: wrap TXB in a frame, into FRB (42_envelope.md R161). -/
def execBuild (s : State) : Result :=
  let n := ceilBytes s.txlen.toNat
  let c := crc24q Config.crcInit (frameBody s)
  let frame := bytesOf (n + 3) (frameBody s) ++ crcBytes c
  complete ((s.setFr (s.frb.writeBytes 0 frame) (BitVec.ofNat 11 (n + 6))).setCrc c)

/-- The length field of the received frame, `val(RXBITS⟨14..23⟩)` (42_envelope.md R163 step 2). -/
def rxLengthField (s : State) : BitVec 10 := BitVec.ofNat 10 (valOf (slice 14 10 (rxBits s)))

/-- The message number of the received frame, `val(RXBITS⟨24..35⟩)` (42_envelope.md R163 step 3). -/
def rxMessageNumber (s : State) : BitVec 12 := BitVec.ofNat 12 (valOf (slice 24 12 (rxBits s)))

/-- PARSE elen, emsg: SHORT, CHECKSUM, LENGTH, MSGTYPE in that order, else PLEN, MSG and CUR ← 36 (42_envelope.md R163). -/
def execParse (elen : BitVec 10) (emsg : BitVec 12) (s : State) : Result :=
  if s.rxlen.toNat < 6 then raiseResult .short s
  else if rxComputedCrc s ≠ rxTrailingCrc s then raiseResult .checksum s
  else if rxLengthField s ≠ elen then raiseResult .length s
  else if rxMessageNumber s ≠ emsg then raiseResult .msgtype s
  else complete ((s.setParsed (rxMessageNumber s) (rxLengthField s)).setCur 36#14)

end Sys2Proof.Machine
end

