-- ==== Sys2Proof/Machine/Packer.lean ====
section
/-!
DEFINITION. The packer commands (40_bitfield.md, part 1).
-/

namespace Sys2Proof.Machine

/-- PUT w (40_bitfield.md R101). -/
def execPut (w : Nat) (s : State) : Result := putField (rawField w s.din) s

/-- PUTSM w (40_bitfield.md R102). -/
def execPutsm (w : Nat) (s : State) : Result := putField (signMagnitudeField w s.din) s

/-- PUTSS w (40_bitfield.md R103). -/
def execPutss (w : Nat) (s : State) : Result := putField (symmetricField w s.din) s

/-- PUTSU w (40_bitfield.md R104). -/
def execPutsu (w : Nat) (s : State) : Result := putField (unsignedField w s.din) s

/-- TXCLR (40_bitfield.md R105). -/
def execTxclr (s : State) : Result := complete (s.setTx [] 0#14)

/-- PACK: left-padded packing of TXB into FRB (40_bitfield.md R106). -/
def execPack (s : State) : Result :=
  complete (s.setFr (s.frb.writeBytes 0 (packBits s.txb)) (BitVec.ofNat 11 (ceilBytes s.txlen.toNat)))

end Sys2Proof.Machine
end

