-- ==== Sys2Proof/Machine/Unpacker.lean ====
section
/-!
DEFINITION. The unpacker commands (40_bitfield.md, part 2).
-/

namespace Sys2Proof.Machine

/-- RXPUT: append DIN[7:0] to RXB, or drop it with WOVF where RXB is full (40_bitfield.md R111). -/
def execRxput (s : State) : Result :=
  if s.rxlen.toNat < Config.rxCap then
    complete (s.setRx (s.rxb.write s.rxlen.toNat (s.din.extractLsb' 0 8)) (s.rxlen + 1#11))
  else complete (warn .wovf s)

/-- RXCLR (40_bitfield.md R112). -/
def execRxclr (s : State) : Result := complete ((s.setRx s.rxb 0#11).setCur 0#14)

/-- LOOP: copy FRB into RXB (40_bitfield.md R113). -/
def execLoop (s : State) : Result := complete ((s.setRx (s.rxb.writeBytes 0 (frBytes s)) s.frlen).setCur 0#14)

/-- SEEK pos (40_bitfield.md R114). -/
def execSeek (pos : BitVec 14) (s : State) : Result := complete (s.setCur pos)

/-- GETU w (40_bitfield.md R116). -/
def execGetu (w : Nat) (s : State) : Result := getField w Config.limU readUnsigned s

/-- GETS w (40_bitfield.md R117). -/
def execGets (w : Nat) (s : State) : Result := getField w Config.limS readTwosComplement s

/-- GETSM w (40_bitfield.md R118). -/
def execGetsm (w : Nat) (s : State) : Result := getField w Config.limSM readSignMagnitude s

/-- GETD w (40_bitfield.md R119). -/
def execGetd (w : Nat) (s : State) : Result := getField w Config.limD readTwosComplement s

/-- FRRD idx (40_bitfield.md R120). -/
def execFrrd (idx : BitVec 11) (s : State) : Result :=
  if idx.toNat < s.frlen.toNat then complete (s.setDout ((s.frb.read idx.toNat).setWidth 64))
  else complete (warn .weof (s.setDout 0#64))

end Sys2Proof.Machine
end

