-- ==== Sys2Proof/Machine/Dispatch.lean ====
section
/-!
DEFINITION. The dispatch of a command to its meaning, one arm for each row of 30_encoding.md R79.
-/

namespace Sys2Proof.Machine

def exec (i : Instr) (s : State) : Host.Outcome State Fault Refusal :=
  match i with
  | .nop => Sys2Proof.Machine.execNop s
  | .txclr => Sys2Proof.Machine.execTxclr s
  | .rxclr => Sys2Proof.Machine.execRxclr s
  | .dclr => Sys2Proof.Machine.execDclr s
  | .crcclr => Sys2Proof.Machine.execCrcclr s
  | .put w => Sys2Proof.Machine.execPut w s
  | .putsm w => Sys2Proof.Machine.execPutsm w s
  | .putss w => Sys2Proof.Machine.execPutss w s
  | .putsu w => Sys2Proof.Machine.execPutsu w s
  | .pack => Sys2Proof.Machine.execPack s
  | .getu w => Sys2Proof.Machine.execGetu w s
  | .gets w => Sys2Proof.Machine.execGets w s
  | .getsm w => Sys2Proof.Machine.execGetsm w s
  | .getd w => Sys2Proof.Machine.execGetd w s
  | .seek pos => Sys2Proof.Machine.execSeek pos s
  | .rxput => Sys2Proof.Machine.execRxput s
  | .loop => Sys2Proof.Machine.execLoop s
  | .frrd idx => Sys2Proof.Machine.execFrrd idx s
  | .crcb w => Sys2Proof.Machine.execCrcb w s
  | .crctx => Sys2Proof.Machine.execCrctx s
  | .verify => Sys2Proof.Machine.execVerify s
  | .build => Sys2Proof.Machine.execBuild s
  | .parse elen emsg => Sys2Proof.Machine.execParse elen emsg s

end Sys2Proof.Machine
end

