-- ==== Sys2Proof/Machine/Port.lean ====
section
/-!
DEFINITION. The host port: the register map of 10_state.md R35, its access rights (R36), command delivery (20_memory.md R55)
and the platform's reset input (70_reset_and_hazards.md R230).
-/

namespace Sys2Proof.Machine

/-- The registers of the host port (10_state.md R35). -/
inductive PortRegister where
  | cmd
  | din
  | dout
  | status
  | crc
  | txlen
  | frlen
  | rxlen
  | cur
  | msg
  | plen
  | id
deriving DecidableEq, Repr

/-- The register at a byte offset; none where the offset is unmapped, 0x60 and above or no multiple of 8 (10_state.md R35). -/
def portRegister (offset : Nat) : Option PortRegister :=
  match offset with
  | 0x00 => some .cmd
  | 0x08 => some .din
  | 0x10 => some .dout
  | 0x18 => some .status
  | 0x20 => some .crc
  | 0x28 => some .txlen
  | 0x30 => some .frlen
  | 0x38 => some .rxlen
  | 0x40 => some .cur
  | 0x48 => some .msg
  | 0x50 => some .plen
  | 0x58 => some .id
  | _ => none

/-- The read value of a register, zero-extended to 64 bits; CMD reads 0 (10_state.md R35). -/
def registerValue (r : PortRegister) (s : State) : DWord :=
  match r with
  | .cmd => 0#64
  | .din => s.din
  | .dout => s.dout
  | .status => s.status.setWidth 64
  | .crc => s.crc.setWidth 64
  | .txlen => s.txlen.setWidth 64
  | .frlen => s.frlen.setWidth 64
  | .rxlen => s.rxlen.setWidth 64
  | .cur => s.cur.setWidth 64
  | .msg => s.msg.setWidth 64
  | .plen => s.plen.setWidth 64
  | .id => Config.identity

/-- What a host read of an offset returns; 0 where it is unmapped (10_state.md R36). -/
def portValue (offset : Nat) (s : State) : DWord :=
  match portRegister offset with
  | some r => registerValue r s
  | none => 0#64

/-- A command word is delivered: decode it and run it, or complete as an illegal command (30_encoding.md R80, 20_memory.md R55). -/
def runCommand (v : Word) (s : State) : Result :=
  match decode v with
  | .command i => exec i s
  | .illegal _ => illegalCommand s

/-- `HostWrite(reg, v)`: CMD executes v[31:0], DIN takes v, a write anywhere else is ignored (10_state.md R36, 20_memory.md R55). -/
def hostWrite (offset : Nat) (v : DWord) (s : State) : Result :=
  match portRegister offset with
  | some .cmd => runCommand (v.setWidth 32) s
  | some .din => .next (s.setDin v)
  | _ => .next s

/-- `HostRead(reg)`: the host receives the register's value and the block is unchanged (20_memory.md R55, R58). -/
def hostRead (offset : Nat) (s : State) : Result := .next (s.reply (portValue offset s))

/-- The platform's reset: every register takes its value of 10_state.md R37; the host's side of the port is not the block's and stays
(70_reset_and_hazards.md R230). That it is one action in the host's list is a DESIGN CHOICE, log 8. -/
def platformReset (s : State) : State :=
  { State.reset with script := s.script, pc := s.pc, replies := s.replies }

/-- One action at the block's boundary. An access that is not 64 bits wide is refused (20_memory.md R53). -/
def perform (a : HostAction) (s : State) : Result :=
  match a with
  | .write bits offset v => if bits = Config.portBits then hostWrite offset v s else .refused (.accessWidth bits)
  | .read bits offset => if bits = Config.portBits then hostRead offset s else .refused (.accessWidth bits)
  | .reset => .next (platformReset s)

/-- The next action of the host, taken with the pc already past it; with no action pending the block is idle and keeps all its
state (10_state.md R32, 60_exceptions.md R216; DEDUCED, log 7). -/
def performNext (s : State) : Result :=
  match s.script[s.pc]? with
  | some a => perform a s.advance
  | none => .next s

/-- The host action that delivers a command word (30_encoding.md R84, 20_memory.md R55). -/
def commandWrite (v : Word) : HostAction := .write Config.portBits 0x00 (v.setWidth 64)

/-- `DIN <- v` (30_encoding.md R84). -/
def dinWrite (v : DWord) : HostAction := .write Config.portBits 0x08 v

/-- The list with `a` at index n, in place of what stood there; a shorter list is filled up with reads of ID (log 1). -/
def placeAction (a : HostAction) : Nat → List HostAction → List HostAction
  | 0, l => a :: l.drop 1
  | n + 1, l => l.headD (.read Config.portBits 0x58) :: placeAction a n (l.drop 1)

end Sys2Proof.Machine
end

