-- ==== Sys2Proof/Machine/Step.lean ====
section
/-!
DEFINITION. One step of the machine: the host's next action (10_state.md R32, 20_memory.md R55). The block fetches nothing; a program
is the host's list of actions, loaded from outside (log 1).
-/

namespace Sys2Proof.Machine

/-- One step: perform the action at the host's pc, or stay idle where there is none. -/
def step (s : State) : Host.Outcome State Fault Refusal := performNext s

/-- The state with the host's next action made a write of the command word `w` to CMD, so that the next step runs it (log 1). -/
def State.withFetchWord (s : State) (nbits w : Nat) : State :=
  { s with script := placeAction (commandWrite (BitVec.ofNat 32 (w % 2 ^ nbits))) s.pc s.script }

end Sys2Proof.Machine
end

