-- ==== Sys2Proof/Machine/Pseudo.lean ====
section
/-!
DEFINITION. The pseudo-instructions of 30_encoding.md R85 and the host actions each stands for (R84, R85).
-/

namespace Sys2Proof.Machine

/-- A pseudo-instruction (30_encoding.md R85). RXBYTES has at least one byte, `b0`. -/
inductive Pseudo where
  | putv (w : Nat) (v : DWord)
  | putsmv (w : Nat) (v : DWord)
  | putssv (w : Nat) (v : DWord)
  | putsuv (w : Nat) (v : DWord)
  | crcbyte (v : DWord)
  | rxbytes (b0 : DWord) (bs : List DWord)
  | newframe
  | rewind
  | restart
deriving DecidableEq, Repr

/-- A command line: the host writes the command's word to CMD (30_encoding.md R84); none for an operand outside its field's range, an
assembly error that produces no word (R83). -/
def commandLine (i : Instr) : Option HostAction := (assemble i).map commandWrite

/-- Several command lines, none where one of them has no word (30_encoding.md R83, R84). -/
def commandLines : List Instr → Option (List HostAction)
  | [] => some []
  | i :: l => (commandLine i).bind (fun a => (commandLines l).map (fun as => a :: as))

/-- `DIN <- v ; command` (30_encoding.md R84, R85). -/
def dinThenCommand (v : DWord) (i : Instr) : Option (List HostAction) := (commandLine i).map (fun a => [dinWrite v, a])

/-- `DIN <- b ; RXPUT` for each byte in order (30_encoding.md R85). -/
def rxLoad : List DWord → Option (List HostAction)
  | [] => some []
  | b :: l => (dinThenCommand b .rxput).bind (fun h => (rxLoad l).map (fun t => h ++ t))

/-- The exact expansion of a pseudo-instruction (30_encoding.md R85); none for a width outside 1 to 64, which has no word (R83).
DESIGN CHOICE, log 12: R85 says "Each pseudo-instruction writes DIN", but its table gives NEWFRAME, REWIND and RESTART no DIN write;
the table of exact expansions is followed, so those three leave DIN alone. -/
def expandPseudo : Pseudo → Option (List HostAction)
  | .putv w v => dinThenCommand v (.put w)
  | .putsmv w v => dinThenCommand v (.putsm w)
  | .putssv w v => dinThenCommand v (.putss w)
  | .putsuv w v => dinThenCommand v (.putsu w)
  | .crcbyte v => dinThenCommand v (.crcb 8)
  | .rxbytes b0 bs => rxLoad (b0 :: bs)
  | .newframe => commandLines [.txclr]
  | .rewind => commandLines [.seek 0#14]
  | .restart => commandLines [.txclr, .rxclr, .dclr, .crcclr]

end Sys2Proof.Machine
end

