-- ==== Sys2Proof/Safety.lean ====
section
/-!
DEFINITION. The terms that claims about the machine use: the invariant every step keeps (10_state.md R38, R27) and the premises
under which a value read from the block is the true field value (60_exceptions.md R217).
-/

namespace Sys2Proof.Machine

/-- The buffer lists addresses below `cap` only (20_memory.md R45). -/
abbrev Memory.below (cap : Nat) (m : Memory) : Prop := ∀ c ∈ m, c.1 < cap

/-- The invariants every command keeps (10_state.md R38), with TXLEN the length of TXB (R27), the buffers in canonical form inside their
address spaces (20_memory.md R45), and the host's pc inside its list. -/
structure Inv (s : State) : Prop where
  txlen_eq : s.txlen.toNat = s.txb.length
  txlen_le : s.txlen.toNat ≤ 8184
  frlen_le : s.frlen.toNat ≤ 1029
  rxlen_le : s.rxlen.toNat ≤ 1029
  cur_le : s.cur.toNat ≤ 16383
  status_reserved : s.status &&& 0xFFFFF0F0#32 = 0#32
  rc_le : s.status &&& 0xF#32 ≤ 5#32
  frb_wf : s.frb.wf
  rxb_wf : s.rxb.wf
  frb_below : s.frb.below 1029
  rxb_below : s.rxb.below 1029
  pc_le : s.pc ≤ s.script.length

/-- The block's own registers and buffers agree: everything but the host's side of the port (10_state.md R20). -/
structure SameBlock (s t : State) : Prop where
  din : t.din = s.din
  dout : t.dout = s.dout
  status : t.status = s.status
  crc : t.crc = s.crc
  txb : t.txb = s.txb
  txlen : t.txlen = s.txlen
  frb : t.frb = s.frb
  frlen : t.frlen = s.frlen
  rxb : t.rxb = s.rxb
  rxlen : t.rxlen = s.rxlen
  cur : t.cur = s.cur
  msg : t.msg = s.msg
  plen : t.plen = s.plen

/-- Two states that agree on all that is architectural: every register, TXB, the host's side of the port, and the valid bytes of FRB and
RXB. They may differ in the bytes beyond FRLEN and RXLEN (10_state.md R34). -/
structure SameArchitectural (s t : State) : Prop where
  din : t.din = s.din
  dout : t.dout = s.dout
  status : t.status = s.status
  crc : t.crc = s.crc
  txb : t.txb = s.txb
  txlen : t.txlen = s.txlen
  frlen : t.frlen = s.frlen
  rxlen : t.rxlen = s.rxlen
  cur : t.cur = s.cur
  msg : t.msg = s.msg
  plen : t.plen = s.plen
  script : t.script = s.script
  pc : t.pc = s.pc
  replies : t.replies = s.replies
  frb : ∀ a, a < s.frlen.toNat → t.frb.read a = s.frb.read a
  rxb : ∀ a, a < s.rxlen.toNat → t.rxb.read a = s.rxb.read a

/-- Stream bit p of RXB: "bit 7 − (p mod 8) of byte RXB[floor(p/8)]" (20_memory.md R48). -/
def rxBit (s : State) (p : Nat) : Bool := (s.rxb.read (p / 8)).getLsbD (7 - p % 8)

/-- Stream bit p of FRB, in the same bit order (20_memory.md R49). -/
def frBit (s : State) (p : Nat) : Bool := (s.frb.read (p / 8)).getLsbD (7 - p % 8)

/-- The last command completed with RC = OK and no warning flag is set: the premise under which a value read from the block is the true
field value (60_exceptions.md R217). -/
abbrev Trusted (s : State) : Prop := s.status &&& 0xF0F#32 = 0#32

end Sys2Proof.Machine
end

