-- ==== Sys2Proof/Certificates/Slice0/Obligations.lean ====
section
/-!
DEFINITION. The statements about the block, from the numbered rules of spec/. They are written with the spec's own numbers and
bit positions wherever that is possible, not with the operations the meanings share. Everywhere `0xFFFFFFF0` keeps STATUS and
sets RC to OK; 0x100, 0x200, 0x400 and 0x800 are WWIDTH, WRANGE, WOVF and WEOF (10_state.md R23). An equation
`exec i s = .next (s with …)` is the command's frame too: every field it does not name is unchanged.
-/

open Sys2Proof Sys2Proof.Machine

/-! ### Reset, the invariant, and what every step keeps -/

/-- 10_state.md R37: every register after reset, and the constant ID. -/
def Obligations.ResetRegistersHoldTheirValues : Prop :=
  State.reset.din = 0#64 ∧ State.reset.dout = 0#64 ∧ State.reset.status = 0#32 ∧ State.reset.crc = 0#24 ∧
  State.reset.txlen = 0#14 ∧ State.reset.txb = [] ∧ State.reset.frlen = 0#11 ∧ State.reset.rxlen = 0#11 ∧
  State.reset.cur = 0#14 ∧ State.reset.msg = 0#12 ∧ State.reset.plen = 0#10 ∧
  portValue 0x58 State.reset = 0x0000000052464531#64

/-- The invariant holds after reset: the limits of 10_state.md R38, which the spec marks as derived, and the model's own clauses (logs 1, 3
and 10). -/
def Obligations.ResetMeetsTheInvariant : Prop := Inv State.reset

/-- Every command word, illegal ones too, completes and keeps the limits of "Invariants every command keeps" (10_state.md R38, which the
spec marks as derived from R24, R27 to R31 and the command rules). -/
def Obligations.CommandWordsKeepTheLimits : Prop :=
  let limits := fun s : State => s.txlen.toNat ≤ 8184 ∧ s.frlen.toNat ≤ 1029 ∧ s.rxlen.toNat ≤ 1029 ∧ s.cur.toNat ≤ 16383 ∧
    s.status.extractLsb' 4 4 = 0#4 ∧ s.status.extractLsb' 12 20 = 0#20 ∧ (s.status.extractLsb' 0 4).toNat ≤ 5
  ∀ (v : Word) (s : State), limits s → ∃ t, runCommand v s = .next t ∧ limits t

/-- Every step, of a command or of any other host action, from every state that meets the invariant keeps it. -/
def Obligations.StepKeepsTheInvariant : Prop :=
  ∀ s t : State, Inv s → step s = .next t → Inv t

/-- 10_state.md R34: two states that differ only in the bytes beyond FRLEN and RXLEN step alike, and still differ only there. -/
def Obligations.HiddenBytesAreUnobservable : Prop :=
  ∀ s t s' : State, Inv s → Inv t → SameArchitectural s t → step s = .next s' →
    ∃ t', step t = .next t' ∧ SameArchitectural s' t'

/-- "Every command step is total" (60_exceptions.md R217, which the spec marks as derived): every command word answers a next state; no command touches DIN (10_state.md R21) or the
host's side of the port. -/
def Obligations.EveryCommandWordCompletes : Prop :=
  ∀ (v : Word) (s : State), ∃ t, runCommand v s = .next t ∧
    t.din = s.din ∧ t.script = s.script ∧ t.pc = s.pc ∧ t.replies = s.replies

/-! ### Encoding -/

/-- Decoding the word of a well-formed command gives the command back, every operand at every value of its field. -/
def Obligations.DecodeInvertsEncode : Prop :=
  ∀ i : Instr, i.wellFormed = true → decode (encode i) = .command i

/-- A word that decodes to a command is that command's only word. -/
def Obligations.EncodeInvertsDecode : Prop :=
  ∀ (v : Word) (i : Instr), decode v = .command i → i.wellFormed = true ∧ encode i = v

/-- 30_encoding.md R79: a word encodes the command of a row exactly when (v AND mask) = match. -/
def Obligations.DecodeFollowsTheOpcodeMap : Prop :=
  ∀ v : Word,
    (v &&& 0xFFFFFFFF#32 = 0x00000000#32 ↔ decode v = .command .nop) ∧
    (v &&& 0xFFFFFFFF#32 = 0x04000000#32 ↔ decode v = .command .txclr) ∧
    (v &&& 0xFFFFFFFF#32 = 0x08000000#32 ↔ decode v = .command .rxclr) ∧
    (v &&& 0xFFFFFFFF#32 = 0x0C000000#32 ↔ decode v = .command .dclr) ∧
    (v &&& 0xFFFFFFFF#32 = 0x10000000#32 ↔ decode v = .command .crcclr) ∧
    (v &&& 0xFC0FFFFF#32 = 0x20000000#32 ↔ ∃ w, decode v = .command (.put w)) ∧
    (v &&& 0xFC0FFFFF#32 = 0x24000000#32 ↔ ∃ w, decode v = .command (.putsm w)) ∧
    (v &&& 0xFC0FFFFF#32 = 0x28000000#32 ↔ ∃ w, decode v = .command (.putss w)) ∧
    (v &&& 0xFC0FFFFF#32 = 0x2C000000#32 ↔ ∃ w, decode v = .command (.putsu w)) ∧
    (v &&& 0xFFFFFFFF#32 = 0x30000000#32 ↔ decode v = .command .pack) ∧
    (v &&& 0xFC0FFFFF#32 = 0x40000000#32 ↔ ∃ w, decode v = .command (.getu w)) ∧
    (v &&& 0xFC0FFFFF#32 = 0x44000000#32 ↔ ∃ w, decode v = .command (.gets w)) ∧
    (v &&& 0xFC0FFFFF#32 = 0x48000000#32 ↔ ∃ w, decode v = .command (.getsm w)) ∧
    (v &&& 0xFC0FFFFF#32 = 0x4C000000#32 ↔ ∃ w, decode v = .command (.getd w)) ∧
    (v &&& 0xFFFFC000#32 = 0x50000000#32 ↔ ∃ pos, decode v = .command (.seek pos)) ∧
    (v &&& 0xFFFFFFFF#32 = 0x54000000#32 ↔ decode v = .command .rxput) ∧
    (v &&& 0xFFFFFFFF#32 = 0x58000000#32 ↔ decode v = .command .loop) ∧
    (v &&& 0xFFFFF800#32 = 0x5C000000#32 ↔ ∃ idx, decode v = .command (.frrd idx)) ∧
    (v &&& 0xFC0FFFFF#32 = 0x60000000#32 ↔ ∃ w, decode v = .command (.crcb w)) ∧
    (v &&& 0xFFFFFFFF#32 = 0x64000000#32 ↔ decode v = .command .crctx) ∧
    (v &&& 0xFFFFFFFF#32 = 0x68000000#32 ↔ decode v = .command .verify) ∧
    (v &&& 0xFFFFFFFF#32 = 0x80000000#32 ↔ decode v = .command .build) ∧
    (v &&& 0xFC00000F#32 = 0x84000000#32 ↔ ∃ elen emsg, decode v = .command (.parse elen emsg))

/-- 30_encoding.md R81, 43_control.md R182: the words that are illegal are those with an unassigned OP or a 1 in a reserved bit of the
format of their OP; such a word completes with RC = ILLEGAL and no other effect. -/
def Obligations.IllegalWordsOnlySetRcIllegal : Prop :=
  ∀ (v : Word) (s : State),
    let op := v.toNat / 2 ^ 26
    let bad : Bool :=
      if op ∈ [0x00, 0x01, 0x02, 0x03, 0x04, 0x0C, 0x15, 0x16, 0x19, 0x1A, 0x20] then v &&& 0x03FFFFFF#32 != 0#32
      else if op ∈ [0x08, 0x09, 0x0A, 0x0B, 0x10, 0x11, 0x12, 0x13, 0x18] then v &&& 0x000FFFFF#32 != 0#32
      else if op = 0x14 then v &&& 0x03FFC000#32 != 0#32
      else if op = 0x17 then v &&& 0x03FFF800#32 != 0#32
      else if op = 0x21 then v &&& 0x0000000F#32 != 0#32
      else true
    (bad = true ↔ ∃ why, decode v = .illegal why) ∧
    (bad = true → runCommand v s = .next { s with status := (s.status &&& 0xFFFFFFF0#32) ||| 5#32 })

/-- The worked encodings of 30_encoding.md R83, both ways. -/
def Obligations.WorkedEncodingsDecode : Prop :=
  decode 0x20B00000#32 = .command (.put 12) ∧ decode 0x23F00000#32 = .command (.put 64) ∧
  decode 0x4E500000#32 = .command (.getd 38) ∧ decode 0x50000024#32 = .command (.seek 36#14) ∧
  decode 0x5C000018#32 = .command (.frrd 24#11) ∧ decode 0x60700000#32 = .command (.crcb 8) ∧
  decode 0x84133ED0#32 = .command (.parse 19#10 1005#12) ∧ decode 0x80000000#32 = .command .build ∧
  encode (.put 12) = 0x20B00000#32 ∧ encode (.parse 19#10 1005#12) = 0x84133ED0#32

/-! ### The step and the host port -/

/-- The next step delivers v[31:0] of a host write to CMD, every word, on the state whose host index is past that action: a word that
decodes runs its command, and a rejected one answers a next state with RC = ILLEGAL and nothing else changed (30_encoding.md R80,
43_control.md R182). The index is the model's own (log 1). -/
def Obligations.StepRunsTheDeliveredCommand : Prop :=
  ∀ (s : State) (v : DWord), s.script[s.pc]? = some (.write 64 0x00 v) →
    step s = runCommand (v.setWidth 32) { s with pc := s.pc + 1 } ∧
    (∀ i, decode (v.setWidth 32) = .command i → step s = exec i { s with pc := s.pc + 1 }) ∧
    (∀ why, decode (v.setWidth 32) = .illegal why →
      step s = .next { s with pc := s.pc + 1, status := (s.status &&& 0xFFFFFFF0#32) ||| 5#32 })

/-- 10_state.md R35: a 64-bit host read returns the register at the offset, zero-extended; CMD and every other offset read 0; nothing
but the host's own record changes. -/
def Obligations.HostReadReturnsTheRegister : Prop :=
  ∀ (s : State) (off : Nat), s.script[s.pc]? = some (.read 64 off) →
    step s = .next { s with
      pc := s.pc + 1
      replies := s.replies ++
        [if off = 0x08 then s.din
         else if off = 0x10 then s.dout
         else if off = 0x18 then s.status.setWidth 64
         else if off = 0x20 then s.crc.setWidth 64
         else if off = 0x28 then s.txlen.setWidth 64
         else if off = 0x30 then s.frlen.setWidth 64
         else if off = 0x38 then s.rxlen.setWidth 64
         else if off = 0x40 then s.cur.setWidth 64
         else if off = 0x48 then s.msg.setWidth 64
         else if off = 0x50 then s.plen.setWidth 64
         else if off = 0x58 then 0x0000000052464531#64
         else 0#64] }

/-- 10_state.md R36: a host write to DIN sets it; a host write to any offset but CMD and DIN changes nothing. -/
def Obligations.HostWriteOutsideCmdSetsOnlyDin : Prop :=
  ∀ (s : State) (off : Nat) (v : DWord), s.script[s.pc]? = some (.write 64 off v) → off ≠ 0x00 →
    step s = .next { s with pc := s.pc + 1, din := if off = 0x08 then v else s.din }

/-- 20_memory.md R53 with 10_state.md R36: an access that is not 64 bits wide is refused (log 4); a 64-bit access at an offset that is no
multiple of 8 is one to an unmapped offset (read 0, write ignored). That a read's value is kept in `replies` is the model's choice
(log 2). -/
def Obligations.OtherAccessWidthsAreRefused : Prop :=
  ∀ (s : State) (bits off : Nat) (v : DWord),
    (s.script[s.pc]? = some (.write bits off v) → bits ≠ 64 → step s = .refused (.accessWidth bits)) ∧
    (s.script[s.pc]? = some (.read bits off) → bits ≠ 64 → step s = .refused (.accessWidth bits)) ∧
    (s.script[s.pc]? = some (.write 64 off v) → off % 8 ≠ 0 → step s = .next { s with pc := s.pc + 1 }) ∧
    (s.script[s.pc]? = some (.read 64 off) → off % 8 ≠ 0 →
      step s = .next { s with pc := s.pc + 1, replies := s.replies ++ [0#64] })

/-- 70_reset_and_hazards.md R230: the platform's reset puts every register at its reset value. That reset is an action in the host's list,
and leaves the host's side alone, is the model's choice (log 8). -/
def Obligations.PlatformResetRestoresEveryRegister : Prop :=
  ∀ s : State, s.script[s.pc]? = some .reset →
    step s = .next { State.reset with script := s.script, pc := s.pc + 1, replies := s.replies }

/-- With no host action pending the step answers the same state: the model's reading of 60_exceptions.md R216 (log 7). -/
def Obligations.IdleStepChangesNothing : Prop :=
  ∀ s : State, s.pc = s.script.length → step s = .next s

/-- 30_encoding.md R85, 70_reset_and_hazards.md R230: RESTART is four commands, which clear the four parts they name and leave the rest.
That none of them writes DIN follows the table of R85 against its last sentence, the model's choice (log 12). -/
def Obligations.RestartClearsTheFourParts : Prop :=
  ∃ l, expandPseudo .restart = some l ∧ l.length = 4 ∧
    ∀ s : State, (∀ k, k < 4 → s.script[s.pc + k]? = l[k]?) →
      Host.Core.run Sys2Proof.core 4 s = .next { s with
        pc := s.pc + 4, txb := [], txlen := 0#14, rxlen := 0#11, cur := 0#14, crc := 0#24,
        status := s.status &&& 0xFFFFF0F0#32 }

/-! ### Rules over all commands -/

/-- 60_exceptions.md R202: which commands can leave which result code. -/
def Obligations.ResultCodesComeOnlyFromTheirCommands : Prop :=
  ∀ (i : Instr) (s t : State), exec i s = .next t →
    (t.status &&& 0xF#32 = 0#32) ∨
    (i = .verify ∧ (t.status &&& 0xF#32 = 1#32 ∨ t.status &&& 0xF#32 = 4#32)) ∨
    (∃ elen emsg, i = .parse elen emsg ∧
      (t.status &&& 0xF#32 = 1#32 ∨ t.status &&& 0xF#32 = 2#32 ∨ t.status &&& 0xF#32 = 3#32 ∨
        t.status &&& 0xF#32 = 4#32))

/-- 10_state.md R25: of all steps, only DCLR and the platform's reset clear a warning flag; DCLR clears all four; `warn` sets its flag, and
where the flag is set already it changes nothing at all. -/
def Obligations.OnlyDclrOrResetClearsAWarning : Prop :=
  (∀ (s t : State) (k : Nat), 8 ≤ k → k < 12 → step s = .next t →
    s.status.getLsbD k = true → t.status.getLsbD k = false →
      s.script[s.pc]? = some .reset ∨
      ∃ v, s.script[s.pc]? = some (.write 64 0x00 v) ∧ decode (v.setWidth 32) = .command .dclr) ∧
  (∀ s t : State, exec .dclr s = .next t → t.status &&& 0xF00#32 = 0#32) ∧
  (∀ (f : Warning) (s : State), warningSet (warn f s).status f = true ∧ (warningSet s.status f = true → warn f s = s))

/-- 10_state.md R23, 60_exceptions.md R204: the commands that can set each warning flag. -/
def Obligations.WarningsAreSetOnlyByTheirCommands : Prop :=
  ∀ (i : Instr) (s t : State), i.wellFormed = true → exec i s = .next t →
    (s.status.getLsbD 8 = false → t.status.getLsbD 8 = true →
      ∃ w, 32 < w ∧ (i = .getu w ∨ i = .gets w ∨ i = .getsm w)) ∧
    (s.status.getLsbD 9 = false → t.status.getLsbD 9 = true →
      ∃ w, i = .putsm w ∨ i = .putss w ∨ i = .putsu w) ∧
    (s.status.getLsbD 10 = false → t.status.getLsbD 10 = true →
      i = .rxput ∨ ∃ w, i = .put w ∨ i = .putsm w ∨ i = .putss w ∨ i = .putsu w) ∧
    (s.status.getLsbD 11 = false → t.status.getLsbD 11 = true →
      (∃ idx, i = .frrd idx) ∨ ∃ w, i = .getu w ∨ i = .gets w ∨ i = .getsm w ∨ i = .getd w)

/-- "A command that raises a code other than OK changes no state but STATUS.RC" (60_exceptions.md R206, which the spec marks as derived
from 41_crc.md R145, 42_envelope.md R163 and 43_control.md R182). -/
def Obligations.FailedCommandChangesOnlyRc : Prop :=
  ∀ (v : Word) (s t : State), runCommand v s = .next t → t.status &&& 0xF#32 ≠ 0#32 →
    t = { s with status := (s.status &&& 0xFFFFFFF0#32) ||| (t.status &&& 0xF#32) }

/-- 10_state.md R21, R22, R26 to R31: the commands that can change each register and buffer. -/
def Obligations.RegistersAreWrittenOnlyByTheirCommands : Prop :=
  ∀ (i : Instr) (s t : State), exec i s = .next t →
    t.din = s.din ∧
    (t.dout ≠ s.dout → (∃ idx, i = .frrd idx) ∨ ∃ w, i = .getu w ∨ i = .gets w ∨ i = .getsm w ∨ i = .getd w) ∧
    (t.crc ≠ s.crc → i = .crcclr ∨ (∃ w, i = .crcb w) ∨ i = .crctx ∨ i = .build) ∧
    (t.txb ≠ s.txb ∨ t.txlen ≠ s.txlen →
      i = .txclr ∨ ∃ w, i = .put w ∨ i = .putsm w ∨ i = .putss w ∨ i = .putsu w) ∧
    (t.frb ≠ s.frb ∨ t.frlen ≠ s.frlen → i = .build ∨ i = .pack) ∧
    (t.rxb ≠ s.rxb → i = .rxput ∨ i = .loop) ∧
    (t.rxlen ≠ s.rxlen → i = .rxput ∨ i = .loop ∨ i = .rxclr) ∧
    (t.cur ≠ s.cur → i = .loop ∨ i = .rxclr ∨ (∃ pos, i = .seek pos) ∨
      (∃ elen emsg, i = .parse elen emsg ∧ t.status &&& 0xF#32 = 0#32 ∧ t.cur = 36#14) ∨
      ∃ w, i = .getu w ∨ i = .gets w ∨ i = .getsm w ∨ i = .getd w) ∧
    (t.msg ≠ s.msg ∨ t.plen ≠ s.plen →
      ∃ elen emsg, i = .parse elen emsg ∧ t.status &&& 0xF#32 = 0#32)

/-! ### The control and clearing commands, and SEEK -/

/-- 43_control.md R180. -/
def Obligations.NopOnlySetsRcOk : Prop :=
  encode .nop = 0x00000000#32 ∧
  ∀ s : State, exec .nop s = .next { s with status := s.status &&& 0xFFFFFFF0#32 }

/-- 43_control.md R181. -/
def Obligations.DclrClearsTheFourWarnings : Prop :=
  encode .dclr = 0x0C000000#32 ∧
  ∀ s : State, exec .dclr s = .next { s with status := s.status &&& 0xFFFFF0F0#32 }

/-- 40_bitfield.md R105. -/
def Obligations.TxclrEmptiesThePayload : Prop :=
  encode .txclr = 0x04000000#32 ∧
  ∀ s : State, exec .txclr s = .next { s with txb := [], txlen := 0#14, status := s.status &&& 0xFFFFFFF0#32 }

/-- 40_bitfield.md R112. -/
def Obligations.RxclrEmptiesTheInput : Prop :=
  encode .rxclr = 0x08000000#32 ∧
  ∀ s : State, exec .rxclr s = .next { s with rxlen := 0#11, cur := 0#14, status := s.status &&& 0xFFFFFFF0#32 }

/-- 41_crc.md R142. -/
def Obligations.CrcclrZeroesTheCrc : Prop :=
  encode .crcclr = 0x10000000#32 ∧
  ∀ s : State, exec .crcclr s = .next { s with crc := 0#24, status := s.status &&& 0xFFFFFFF0#32 }

/-- 40_bitfield.md R114. -/
def Obligations.SeekSetsTheCursor : Prop :=
  ∀ (pos : BitVec 14) (s : State),
    encode (.seek pos) = 0x50000000#32 ||| pos.setWidth 32 ∧
    exec (.seek pos) s = .next { s with cur := pos, status := s.status &&& 0xFFFFFFF0#32 }

/-! ### The packer -/

/-- 40_bitfield.md R101 with R100: PUT w appends DIN[w-1], …, DIN[0], as many of them as fit. -/
def Obligations.PutAppendsTheRawLowBits : Prop :=
  ∀ (w : Nat) (s : State), 1 ≤ w → w ≤ 64 →
    let room := 8184 - s.txlen.toNat
    let field := (List.range w).map (fun i => s.din.getLsbD (w - 1 - i))
    encode (.put w) = 0x20000000#32 ||| BitVec.ofNat 32 ((w - 1) * 2 ^ 20) ∧
    exec (.put w) s = .next { s with
      txb := s.txb ++ field.take room
      txlen := s.txlen + BitVec.ofNat 14 (min w room)
      status := (s.status &&& 0xFFFFFFF0#32) ||| (if room < w then 0x400#32 else 0#32) }

/-- 40_bitfield.md R102: PUTSM w appends the sign of DIN and its magnitude, saturated at 2^(w-1) - 1. -/
def Obligations.PutsmAppendsSignAndMagnitude : Prop :=
  ∀ (w : Nat) (s : State), 1 ≤ w → w ≤ 64 →
    let x := s.din.toInt
    let m := min x.natAbs (2 ^ (w - 1) - 1)
    let room := 8184 - s.txlen.toNat
    let field := decide (x < 0) :: (List.range (w - 1)).map (fun i => m.testBit (w - 2 - i))
    encode (.putsm w) = 0x24000000#32 ||| BitVec.ofNat 32 ((w - 1) * 2 ^ 20) ∧
    exec (.putsm w) s = .next { s with
      txb := s.txb ++ field.take room
      txlen := s.txlen + BitVec.ofNat 14 (min w room)
      status := (s.status &&& 0xFFFFFFF0#32) ||| (if 2 ^ (w - 1) - 1 < x.natAbs then 0x200#32 else 0#32) |||
        (if room < w then 0x400#32 else 0#32) }

/-- 40_bitfield.md R103: PUTSS w appends the w low bits of DIN clamped to ±(2^(w-1) - 1). -/
def Obligations.PutssAppendsTheSymmetricClamp : Prop :=
  ∀ (w : Nat) (s : State), 1 ≤ w → w ≤ 64 →
    let x := s.din.toInt
    let hi : Int := 2 ^ (w - 1) - 1
    let c := max (-hi) (min hi x)
    let room := 8184 - s.txlen.toNat
    let field := (List.range w).map (fun i => (BitVec.ofInt w c).getLsbD (w - 1 - i))
    encode (.putss w) = 0x28000000#32 ||| BitVec.ofNat 32 ((w - 1) * 2 ^ 20) ∧
    exec (.putss w) s = .next { s with
      txb := s.txb ++ field.take room
      txlen := s.txlen + BitVec.ofNat 14 (min w room)
      status := (s.status &&& 0xFFFFFFF0#32) ||| (if x < -hi ∨ hi < x then 0x200#32 else 0#32) |||
        (if room < w then 0x400#32 else 0#32) }

/-- 40_bitfield.md R104: PUTSU w appends DIN clamped to [0, 2^w - 1]. -/
def Obligations.PutsuAppendsTheUnsignedClamp : Prop :=
  ∀ (w : Nat) (s : State), 1 ≤ w → w ≤ 64 →
    let x := s.din.toInt
    let hi : Int := 2 ^ w - 1
    let c := max 0 (min hi x)
    let room := 8184 - s.txlen.toNat
    let field := (List.range w).map (fun i => c.toNat.testBit (w - 1 - i))
    encode (.putsu w) = 0x2C000000#32 ||| BitVec.ofNat 32 ((w - 1) * 2 ^ 20) ∧
    exec (.putsu w) s = .next { s with
      txb := s.txb ++ field.take room
      txlen := s.txlen + BitVec.ofNat 14 (min w room)
      status := (s.status &&& 0xFFFFFFF0#32) ||| (if x < 0 ∨ hi < x then 0x200#32 else 0#32) |||
        (if room < w then 0x400#32 else 0#32) }

/-- 40_bitfield.md R106: PACK writes the left-padded bytes of TXB to FRB, FRLEN becomes their count, and nothing else changes. -/
def Obligations.PackWritesTheLeftPaddedBytes : Prop :=
  encode .pack = 0x30000000#32 ∧
  ∀ s : State, Inv s →
    let n := (s.txlen.toNat + 7) / 8
    let padded := List.replicate (8 * n - s.txlen.toNat) false ++ s.txb
    ∃ t, exec .pack s = .next t ∧
      t = { s with frb := t.frb, frlen := BitVec.ofNat 11 n, status := s.status &&& 0xFFFFFFF0#32 } ∧
      (∀ i j, i < n → j < 8 → (t.frb.read i).getLsbD (7 - j) = padded.getD (8 * i + j) false) ∧
      (∀ a, n ≤ a → t.frb.read a = s.frb.read a)

/-! ### The unpacker -/

/-- 40_bitfield.md R111: RXPUT stores DIN[7:0] at RXB[RXLEN], or drops it with WOVF where RXB is full. -/
def Obligations.RxputAppendsOneByte : Prop :=
  encode .rxput = 0x54000000#32 ∧
  ∀ s : State, s.rxb.wf →
    (s.rxlen.toNat < 1029 → ∃ t, exec .rxput s = .next t ∧
      t = { s with rxb := t.rxb, rxlen := s.rxlen + 1#11, status := s.status &&& 0xFFFFFFF0#32 } ∧
      t.rxb.read s.rxlen.toNat = s.din.setWidth 8 ∧
      (∀ a, a ≠ s.rxlen.toNat → t.rxb.read a = s.rxb.read a)) ∧
    (1029 ≤ s.rxlen.toNat →
      exec .rxput s = .next { s with status := (s.status &&& 0xFFFFFFF0#32) ||| 0x400#32 })

/-- 40_bitfield.md R113: LOOP copies the valid bytes of FRB to RXB and sets RXLEN and CUR. -/
def Obligations.LoopCopiesTheFrame : Prop :=
  encode .loop = 0x58000000#32 ∧
  ∀ s : State, s.rxb.wf → ∃ t, exec .loop s = .next t ∧
    t = { s with rxb := t.rxb, rxlen := s.frlen, cur := 0#14, status := s.status &&& 0xFFFFFFF0#32 } ∧
    (∀ a, a < s.frlen.toNat → t.rxb.read a = s.frb.read a) ∧
    (∀ a, s.frlen.toNat ≤ a → t.rxb.read a = s.rxb.read a)

/-- 40_bitfield.md R120: FRRD reads one valid byte of FRB, or 0 with WEOF. -/
def Obligations.FrrdReadsOneByte : Prop :=
  ∀ (idx : BitVec 11) (s : State),
    encode (.frrd idx) = 0x5C000000#32 ||| idx.setWidth 32 ∧
    exec (.frrd idx) s = .next { s with
      dout := if idx < s.frlen then (s.frb.read idx.toNat).setWidth 64 else 0#64
      status := (s.status &&& 0xFFFFFFF0#32) ||| (if idx < s.frlen then 0#32 else 0x800#32) }

/-- 40_bitfield.md R116 with R115: GETU w reads w bits at CUR, zero-extended; over 32 bits, or past the end, DOUT is 0. -/
def Obligations.GetuReadsAnUnsignedField : Prop :=
  ∀ (w : Nat) (s : State), 1 ≤ w → w ≤ 64 →
    let p := s.cur.toNat
    encode (.getu w) = 0x40000000#32 ||| BitVec.ofNat 32 ((w - 1) * 2 ^ 20) ∧
    ∃ d : DWord, exec (.getu w) s = .next { s with
        dout := d
        cur := BitVec.ofNat 14 (min (p + w) 16383)
        status := (s.status &&& 0xFFFFFFF0#32) |||
          (if 32 < w then 0x100#32 else if 8 * s.rxlen.toNat < p + w then 0x800#32 else 0#32) } ∧
      (if 32 < w ∨ 8 * s.rxlen.toNat < p + w then d = 0#64
       else ∀ k, k < 64 → d.getLsbD k = (decide (k < w) && rxBit s (p + (w - 1 - k))))

/-- 40_bitfield.md R117 with R115: GETS w reads w bits at CUR, sign-extended from the first. -/
def Obligations.GetsReadsATwosComplementField : Prop :=
  ∀ (w : Nat) (s : State), 1 ≤ w → w ≤ 64 →
    let p := s.cur.toNat
    encode (.gets w) = 0x44000000#32 ||| BitVec.ofNat 32 ((w - 1) * 2 ^ 20) ∧
    ∃ d : DWord, exec (.gets w) s = .next { s with
        dout := d
        cur := BitVec.ofNat 14 (min (p + w) 16383)
        status := (s.status &&& 0xFFFFFFF0#32) |||
          (if 32 < w then 0x100#32 else if 8 * s.rxlen.toNat < p + w then 0x800#32 else 0#32) } ∧
      (if 32 < w ∨ 8 * s.rxlen.toNat < p + w then d = 0#64
       else ∀ k, k < 64 → d.getLsbD k = rxBit s (if k < w then p + (w - 1 - k) else p))

/-- 40_bitfield.md R118 with R115: GETSM w reads a sign bit and a magnitude of w - 1 bits. -/
def Obligations.GetsmReadsASignMagnitudeField : Prop :=
  ∀ (w : Nat) (s : State), 1 ≤ w → w ≤ 64 →
    let p := s.cur.toNat
    encode (.getsm w) = 0x48000000#32 ||| BitVec.ofNat 32 ((w - 1) * 2 ^ 20) ∧
    ∃ d : DWord, exec (.getsm w) s = .next { s with
        dout := d
        cur := BitVec.ofNat 14 (min (p + w) 16383)
        status := (s.status &&& 0xFFFFFFF0#32) |||
          (if 32 < w then 0x100#32 else if 8 * s.rxlen.toNat < p + w then 0x800#32 else 0#32) } ∧
      (if 32 < w ∨ 8 * s.rxlen.toNat < p + w then d = 0#64
       else ∃ m : DWord, (∀ k, k < 64 → m.getLsbD k = (decide (k < w - 1) && rxBit s (p + (w - 1 - k)))) ∧
         d = if rxBit s p then -m else m)

/-- 40_bitfield.md R119 with R115: GETD w reads w bits at CUR, up to 64, sign-extended from the first; it never sets WWIDTH. -/
def Obligations.GetdReadsAWideField : Prop :=
  ∀ (w : Nat) (s : State), 1 ≤ w → w ≤ 64 →
    let p := s.cur.toNat
    encode (.getd w) = 0x4C000000#32 ||| BitVec.ofNat 32 ((w - 1) * 2 ^ 20) ∧
    ∃ d : DWord, exec (.getd w) s = .next { s with
        dout := d
        cur := BitVec.ofNat 14 (min (p + w) 16383)
        status := (s.status &&& 0xFFFFFFF0#32) ||| (if 8 * s.rxlen.toNat < p + w then 0x800#32 else 0#32) } ∧
      (if 8 * s.rxlen.toNat < p + w then d = 0#64
       else ∀ k, k < 64 → d.getLsbD k = rxBit s (if k < w then p + (w - 1 - k) else p))

/-! ### The CRC -/

/-- 41_crc.md R143 with the loop of R140: CRCB w feeds DIN[w-1], …, DIN[0] into CRC. -/
def Obligations.CrcbRunsTheUpdateLoop : Prop :=
  ∀ (w : Nat) (s : State), 1 ≤ w → w ≤ 64 →
    encode (.crcb w) = 0x60000000#32 ||| BitVec.ofNat 32 ((w - 1) * 2 ^ 20) ∧
    exec (.crcb w) s = .next { s with
      crc := (List.range w).foldl (fun (c : BitVec 24) i =>
        if (c.getLsbD 23 ^^ s.din.getLsbD (w - 1 - i)) = true then (c <<< 1) ^^^ 0x864CFB#24 else c <<< 1) s.crc
      status := s.status &&& 0xFFFFFFF0#32 }

/-- 41_crc.md R144: CRCTX computes the CRC of TXB from 0, which is the CRC of the bytes PACK would produce. -/
def Obligations.CrctxIsTheCrcOfThePackedPayload : Prop :=
  encode .crctx = 0x64000000#32 ∧
  ∀ s : State, exec .crctx s = .next { s with crc := crc24q 0#24 s.txb, status := s.status &&& 0xFFFFFFF0#32 } ∧
    crc24q 0#24 s.txb = crc24q 0#24 (bytesToBits (packBits s.txb))

/-- The five laws of crc24q of 41_crc.md R141, which the spec marks as derived from R140. -/
def Obligations.CrcLaws : Prop :=
  (∀ (c : BitVec 24) (S T : BitString), crc24q (crc24q c S) T = crc24q c (S ++ T)) ∧
  (∀ (k : Nat) (S : BitString), crc24q 0#24 (List.replicate k false ++ S) = crc24q 0#24 S) ∧
  (∀ S : BitString, crc24q 0#24 (bytesToBits (packBits S)) = crc24q 0#24 S) ∧
  (∀ S : BitString, crc24q 0#24 (S ++ bitsOf 24 (crc24q 0#24 S).toNat) = 0#24) ∧
  (∀ (b : Byte) (B : List Byte),
    crc24q 0#24 (bytesToBits (b :: B)) = crc24q (crc24q 0#24 (bitsOf 8 b.toNat)) (bytesToBits B))

/-- 41_crc.md R140: crc24q(0, S), as a polynomial over GF(2), is the remainder of S(x)·x^24 by 0x1864CFB. -/
def Obligations.CrcIsTheRemainderModuloPoly : Prop :=
  ∀ S : BitString,
    let poly : BitString → Polynomial (ZMod 2) := fun T =>
      T.foldl (fun p b => p * Polynomial.X + (if b then 1 else 0)) 0
    ∃ q, poly S * Polynomial.X ^ 24 = q * poly (bitsOf 25 0x1864CFB) + poly (bitsOf 24 (crc24q 0#24 S).toNat)

/-- 41_crc.md R145: VERIFY tests SHORT, then CHECKSUM, and writes nothing but STATUS.RC. -/
def Obligations.VerifyComparesTheTrailingCrc : Prop :=
  encode .verify = 0x68000000#32 ∧
  ∀ s : State,
    let n := s.rxlen.toNat
    let c := crc24q 0#24 ((List.range (8 * (n - 3))).map (rxBit s))
    let r := (s.rxb.read (n - 3)).toNat * 2 ^ 16 + (s.rxb.read (n - 2)).toNat * 2 ^ 8 + (s.rxb.read (n - 1)).toNat
    exec .verify s = .next { s with
      status := (s.status &&& 0xFFFFFFF0#32) ||| (if n < 3 then 4#32 else if c.toNat ≠ r then 1#32 else 0#32) }

/-! ### The enveloper -/

/-- 42_envelope.md R160, R161: BUILD writes preamble, reserved zeros, length, the right-padded payload and the CRC to FRB, sets FRLEN
to n + 6 and CRC to the checksum, and changes nothing else. -/
def Obligations.BuildWritesTheFrame : Prop :=
  encode .build = 0x80000000#32 ∧
  ∀ s : State, Inv s →
    let n := (s.txlen.toNat + 7) / 8
    ∃ t, exec .build s = .next t ∧
      t = { s with frb := t.frb, frlen := BitVec.ofNat 11 (n + 6), crc := t.crc,
                   status := s.status &&& 0xFFFFFFF0#32 } ∧
      t.frlen.toNat = 3 + n + 3 ∧
      t.frb.read 0 = 0xD3#8 ∧ (t.frb.read 1).toNat = n / 256 ∧ (t.frb.read 2).toNat = n % 256 ∧
      (∀ p, p < 8 * n → frBit t (24 + p) = s.txb.getD p false) ∧
      t.crc = crc24q 0#24 ((List.range (8 * (n + 3))).map (frBit t)) ∧
      (∀ p, p < 24 → frBit t (8 * (n + 3) + p) = t.crc.getLsbD (23 - p)) ∧
      (∀ a, n + 6 ≤ a → t.frb.read a = s.frb.read a)

/-- 42_envelope.md R163: PARSE tests SHORT, CHECKSUM, LENGTH, MSGTYPE in that order; only when all pass are PLEN, MSG and CUR written. -/
def Obligations.ParseValidatesInOrder : Prop :=
  ∀ (elen : BitVec 10) (emsg : BitVec 12) (s : State),
    let n := s.rxlen.toNat
    let c := crc24q 0#24 ((List.range (8 * (n - 3))).map (rxBit s))
    let r := (s.rxb.read (n - 3)).toNat * 2 ^ 16 + (s.rxb.read (n - 2)).toNat * 2 ^ 8 + (s.rxb.read (n - 1)).toNat
    let L := (s.rxb.read 1).toNat % 4 * 256 + (s.rxb.read 2).toNat
    let M := (s.rxb.read 3).toNat * 16 + (s.rxb.read 4).toNat / 16
    let rest := s.status &&& 0xFFFFFFF0#32
    encode (.parse elen emsg) = 0x84000000#32 ||| BitVec.ofNat 32 (elen.toNat * 2 ^ 16 + emsg.toNat * 2 ^ 4) ∧
    exec (.parse elen emsg) s = .next
      (if n < 6 then { s with status := rest ||| 4#32 }
       else if c.toNat ≠ r then { s with status := rest ||| 1#32 }
       else if L ≠ elen.toNat then { s with status := rest ||| 2#32 }
       else if M ≠ emsg.toNat then { s with status := rest ||| 3#32 }
       else { s with plen := BitVec.ofNat 10 L, msg := BitVec.ofNat 12 M, cur := 36#14, status := rest })

/-- 42_envelope.md R161, 70_reset_and_hazards.md R241: a second BUILD changes nothing, so it gives the same frame. -/
def Obligations.BuildTwiceGivesTheSameState : Prop :=
  ∀ s t : State, Inv s → exec .build s = .next t → exec .build t = .next t

/-- A frame that BUILD made and LOOP copied verifies and, where it holds a message number, parses with its own length and number. -/
def Obligations.BuiltFrameVerifiesAndParses : Prop :=
  ∀ s t u : State, Inv s → exec .build s = .next t → exec .loop t = .next u →
    exec .verify u = .next u ∧
    (12 ≤ s.txlen.toNat →
      let n := (s.txlen.toNat + 7) / 8
      let m := BitVec.ofNat 12 (valOf (s.txb.take 12))
      exec (.parse (BitVec.ofNat 10 n) m) u = .next { u with plen := BitVec.ofNat 10 n, msg := m, cur := 36#14 })

/-- The checksum sensitivity of 41_crc.md R146, which the spec marks as derived from R140, R141 and R161: flipping any one bit of a built frame, the CRC's own bits included, makes VERIFY and PARSE report CHECKSUM; flipping
none leaves VERIFY at OK. -/
def Obligations.SingleBitFlipsAreDetected : Prop :=
  ∀ s t u : State, Inv s → exec .build s = .next t → u.rxlen = t.frlen →
    ((∀ p, p < 8 * t.frlen.toNat → rxBit u p = frBit t p) →
      exec .verify u = .next { u with status := u.status &&& 0xFFFFFFF0#32 }) ∧
    (∀ j, j < 8 * t.frlen.toNat →
      (∀ p, p < 8 * t.frlen.toNat → rxBit u p = (frBit t p ^^ decide (p = j))) →
        exec .verify u = .next { u with status := (u.status &&& 0xFFFFFFF0#32) ||| 1#32 } ∧
        ∀ elen emsg, exec (.parse elen emsg) u =
          .next { u with status := (u.status &&& 0xFFFFFFF0#32) ||| 1#32 })

/-- The round trip of 40_bitfield.md R121, which the spec marks as derived: a field written by PUT, with any payload before and after it, is read back at its position from the built and
copied frame by GETU, GETS and GETD. -/
def Obligations.RawFieldsReadBack : Prop :=
  ∀ (w : Nat) (s s1 s2 t u v : State), 1 ≤ w → w ≤ 64 → Inv s → s.txlen.toNat + w ≤ 8184 →
    exec (.put w) s = .next s1 → Inv s2 → s1.txb <+: s2.txb →
    exec .build s2 = .next t → exec .loop t = .next u → exec (.seek (24#14 + s.txlen)) u = .next v →
      (w ≤ 32 → ∃ x, exec (.getu w) v = .next x ∧ x.dout.toNat = s.din.toNat % 2 ^ w) ∧
      (w ≤ 32 → ∃ x, exec (.gets w) v = .next x ∧ x.dout = (s.din.setWidth w).signExtend 64) ∧
      (∃ x, exec (.getd w) v = .next x ∧ x.dout = (s.din.setWidth w).signExtend 64)

/-- The round trip of 40_bitfield.md R121, which the spec marks as derived: a field written by PUTSM reads back by GETSM as the clamped value, and one written by PUTSS by GETS. -/
def Obligations.ClampedFieldsReadBack : Prop :=
  ∀ (w : Nat) (s s1 s2 t u v : State), 1 ≤ w → w ≤ 32 → Inv s → s.txlen.toNat + w ≤ 8184 →
    Inv s2 → s1.txb <+: s2.txb →
    exec .build s2 = .next t → exec .loop t = .next u → exec (.seek (24#14 + s.txlen)) u = .next v →
      let hi : Int := 2 ^ (w - 1) - 1
      let c := max (-hi) (min hi s.din.toInt)
      (exec (.putsm w) s = .next s1 → ∃ x, exec (.getsm w) v = .next x ∧ x.dout.toInt = c) ∧
      (exec (.putss w) s = .next s1 → ∃ x, exec (.gets w) v = .next x ∧ x.dout.toInt = c)

/-! ### The pseudo-instructions -/

/-- The table of 30_encoding.md R85: what each pseudo-instruction expands to, at every operand; a width outside 1 to 64 has no word and so
no expansion (R83). That NEWFRAME, REWIND and RESTART write no DIN follows the table against R85's last sentence, the model's choice
(log 12). -/
def Obligations.PseudoInstructionsExpandByTheTable : Prop :=
  (∀ (w : Nat) (v : DWord), 1 ≤ w → w ≤ 64 →
    let wm1 := BitVec.ofNat 64 ((w - 1) * 2 ^ 20)
    expandPseudo (.putv w v) = some [.write 64 0x08 v, .write 64 0x00 (0x20000000#64 ||| wm1)] ∧
    expandPseudo (.putsmv w v) = some [.write 64 0x08 v, .write 64 0x00 (0x24000000#64 ||| wm1)] ∧
    expandPseudo (.putssv w v) = some [.write 64 0x08 v, .write 64 0x00 (0x28000000#64 ||| wm1)] ∧
    expandPseudo (.putsuv w v) = some [.write 64 0x08 v, .write 64 0x00 (0x2C000000#64 ||| wm1)]) ∧
  (∀ (w : Nat) (v : DWord), w = 0 ∨ 64 < w →
    expandPseudo (.putv w v) = none ∧ expandPseudo (.putsmv w v) = none ∧
    expandPseudo (.putssv w v) = none ∧ expandPseudo (.putsuv w v) = none) ∧
  (∀ v : DWord, expandPseudo (.crcbyte v) = some [.write 64 0x08 v, .write 64 0x00 0x60700000#64]) ∧
  (∀ (b0 : DWord) (bs : List DWord), expandPseudo (.rxbytes b0 bs) =
    some ((b0 :: bs).flatMap (fun b => [.write 64 0x08 b, .write 64 0x00 0x54000000#64]))) ∧
  expandPseudo .newframe = some [.write 64 0x00 0x04000000#64] ∧
  expandPseudo .rewind = some [.write 64 0x00 0x50000000#64] ∧
  expandPseudo .restart = some [.write 64 0x00 0x04000000#64, .write 64 0x00 0x08000000#64,
    .write 64 0x00 0x0C000000#64, .write 64 0x00 0x10000000#64]
end

