-- ==== Sys2Proof/Laws/Bits.lean ====
section
/-!
SUPPORT. The small lemmas of bit strings: lengths, values, and the two ways between bytes and bits.
-/

namespace Sys2Proof.Machine

@[simp] theorem length_bitsOf (w v : Nat) : (bitsOf w v).length = w := by
  induction w with
  | zero => rfl
  | succ w ih => simp [bitsOf, ih]

/-- Position i of `bits_w(v)` is `v[w-1-i]` (00_scope.md R9). -/
theorem getElem_bitsOf (w v i : Nat) (h : i < (bitsOf w v).length) :
    (bitsOf w v)[i] = v.testBit (w - 1 - i) := by
  induction w generalizing i with
  | zero => simp at h
  | succ w ih =>
    cases i with
    | zero => simp [bitsOf]
    | succ i =>
      have hi : i < (bitsOf w v).length := by simpa using h
      simp only [bitsOf, List.getElem_cons_succ, ih i hi]
      congr 1
      omega

theorem foldl_valOf (S : BitString) (n : Nat) :
    S.foldl (fun n b => 2 * n + b.toNat) n = n * 2 ^ S.length + valOf S := by
  induction S generalizing n with
  | nil => simp [valOf]
  | cons b S ih =>
    have e : valOf (b :: S) = b.toNat * 2 ^ S.length + valOf S := by
      show S.foldl (fun n b => 2 * n + b.toNat) (2 * 0 + b.toNat) = _
      rw [ih]; simp
    rw [List.foldl_cons, ih, e, List.length_cons, pow_succ]
    ring

@[simp] theorem valOf_nil : valOf [] = 0 := rfl

theorem valOf_cons (b : Bool) (S : BitString) : valOf (b :: S) = b.toNat * 2 ^ S.length + valOf S := by
  show S.foldl (fun n b => 2 * n + b.toNat) (2 * 0 + b.toNat) = _
  rw [foldl_valOf]; simp

theorem valOf_append (S T : BitString) : valOf (S ++ T) = valOf S * 2 ^ T.length + valOf T := by
  show (S ++ T).foldl (fun n b => 2 * n + b.toNat) 0 = _
  rw [List.foldl_append, foldl_valOf]; rfl

theorem valOf_lt (S : BitString) : valOf S < 2 ^ S.length := by
  induction S with
  | nil => simp
  | cons b S ih =>
    rw [valOf_cons, List.length_cons, pow_succ]
    cases b <;> simp <;> omega

/-- The value of `bits_w(v)` is v's low w bits (00_scope.md R9). -/
@[simp] theorem valOf_bitsOf (w v : Nat) : valOf (bitsOf w v) = v % 2 ^ w := by
  induction w with
  | zero => simp [bitsOf, Nat.mod_one]
  | succ w ih =>
    rw [bitsOf, valOf_cons, length_bitsOf, ih, Nat.pow_succ, Nat.mod_mul, Nat.testBit_eq_decide_div_mod_eq]
    rcases Nat.mod_two_eq_zero_or_one (v / 2 ^ w) with h | h <;> simp [h, Nat.add_comm]

/-- A bit string is `bits` of its value. -/
@[simp] theorem bitsOf_valOf (S : BitString) : bitsOf S.length (valOf S) = S := by
  apply List.ext_getElem
  · simp
  · intro i h1 h2
    rw [getElem_bitsOf]
    induction S generalizing i with
    | nil => simp at h2
    | cons b S ih =>
      have hlt := valOf_lt S
      cases i with
      | zero =>
        simp only [List.length_cons, Nat.add_sub_cancel, Nat.sub_zero, valOf_cons, List.getElem_cons_zero]
        rw [Nat.mul_comm, Nat.testBit_two_pow_mul_add _ hlt]
        cases b <;> simp
      | succ i =>
        have hi : i < S.length := by simpa using h2
        simp only [List.length_cons, valOf_cons, List.getElem_cons_succ]
        rw [Nat.mul_comm, Nat.testBit_two_pow_mul_add _ hlt, if_pos (by omega),
          ← ih i (by simpa using hi) hi]
        congr 1
        omega

/-- `bits_w(v)` position by position (00_scope.md R9). -/
theorem bitsOf_eq_map (w v : Nat) : bitsOf w v = (List.range w).map (fun i => v.testBit (w - 1 - i)) := by
  refine List.ext_getElem (by simp) (fun i h1 h2 => ?_)
  rw [getElem_bitsOf]
  simp

/-- Bit k of `val(S)`: position k counted from the end of S (00_scope.md R9). -/
theorem testBit_valOf (S : BitString) (k : Nat) :
    (valOf S).testBit k = (decide (k < S.length) && S.getD (S.length - 1 - k) false) := by
  by_cases h : k < S.length
  · have e := getElem_bitsOf S.length (valOf S) (S.length - 1 - k) (by simp; omega)
    simp only [bitsOf_valOf] at e
    rw [show S.length - 1 - (S.length - 1 - k) = k by omega] at e
    rw [← e, List.getD_eq_getElem _ _ (by omega)]
    simp [h]
  · simp only [h, decide_false, Bool.false_and]
    exact Nat.testBit_lt_two_pow (lt_of_lt_of_le (valOf_lt S) (Nat.pow_le_pow_right (by omega) (by omega)))

/-- The middle part of three, by its position and length. -/
theorem slice_append (S T U : BitString) : slice S.length T.length (S ++ T ++ U) = T := by simp [slice]

@[simp] theorem length_zeros (k : Nat) : (zeros k).length = k := by simp [zeros]

theorem length_slice (p w : Nat) (S : BitString) (h : p + w ≤ S.length) : (slice p w S).length = w := by
  simp [slice]; omega

@[simp] theorem bytesToBits_nil : bytesToBits [] = [] := rfl

theorem bytesToBits_cons (b : Byte) (B : List Byte) :
    bytesToBits (b :: B) = bitsOf 8 b.toNat ++ bytesToBits B := by simp [bytesToBits]

theorem bytesToBits_append (A B : List Byte) : bytesToBits (A ++ B) = bytesToBits A ++ bytesToBits B := by
  simp [bytesToBits]

@[simp] theorem length_bytesToBits (B : List Byte) : (bytesToBits B).length = 8 * B.length := by
  induction B with
  | nil => rfl
  | cons b B ih => rw [bytesToBits_cons]; simp [ih]; omega

/-- Position p of `bytes_to_bits(B)` is bit 7 - (p mod 8) of byte p / 8 (20_memory.md R48). -/
theorem getElem_bytesToBits (B : List Byte) (p : Nat) (h : p < (bytesToBits B).length) :
    (bytesToBits B)[p] = (B[p / 8]'(by simp at h; omega)).getLsbD (7 - p % 8) := by
  induction B generalizing p with
  | nil => simp at h
  | cons b B ih =>
    simp only [bytesToBits_cons, List.getElem_append, length_bitsOf]
    split
    · have e : p / 8 = 0 := by omega
      rw [getElem_bitsOf]
      simp only [e, List.getElem_cons_zero, BitVec.testBit_toNat]
      congr 1
      omega
    · rw [ih]
      obtain ⟨q, rfl⟩ : ∃ q, p = q + 8 := ⟨p - 8, by omega⟩
      have e : (q + 8) / 8 = q / 8 + 1 := by omega
      simp [e]

@[simp] theorem length_bytesOf (n : Nat) (S : BitString) : (bytesOf n S).length = n := by
  induction n generalizing S with
  | zero => rfl
  | succ n ih => simp [bytesOf, ih]

/-- Packing a whole number of bytes and expanding them gives the bits back (00_scope.md R10). -/
theorem bytesToBits_bytesOf (n : Nat) (S : BitString) (h : S.length = 8 * n) :
    bytesToBits (bytesOf n S) = S := by
  induction n generalizing S with
  | zero => simp [bytesOf, List.length_eq_zero_iff.mp h]
  | succ n ih =>
    have h8 : (S.take 8).length = 8 := by simp; omega
    have hv := valOf_lt (S.take 8)
    rw [h8] at hv
    have hb : bitsOf 8 (valOf (S.take 8)) = S.take 8 := by
      conv_rhs => rw [← bitsOf_valOf (S.take 8), h8]
    rw [bytesOf, bytesToBits_cons, ih (S.drop 8) (by simp; omega), BitVec.toNat_ofNat,
      Nat.mod_eq_of_lt hv, hb, List.take_append_drop]

/-- `len(pack(S)) = ceil(len(S)/8)` (00_scope.md R10). -/
@[simp] theorem length_packBits (S : BitString) : (packBits S).length = ceilBytes S.length := by simp [packBits]

@[simp] theorem length_leftPadded (S : BitString) : (leftPadded S).length = 8 * ceilBytes S.length := by
  simp [leftPadded, ceilBytes]; omega

end Sys2Proof.Machine
end

