-- ==== Sys2Proof/Laws/Decode.lean ====
section
/-!
SUPPORT. The fields of an encoded command: what the decoder's field readers and a row's mask find in a word of each format
(30_encoding.md R72). Of the opcode map: no two rows share an OP (R80), and each row's match lies under its mask (R79).
-/

namespace Sys2Proof

/-- The bits of a word of format N (30_encoding.md R72). -/
theorem getLsbD_formatN (op : BitVec 6) (j : Nat) :
    (formatN op).getLsbD j = (op ++ 0#26 : BitVec (6+26)).getLsbD j := rfl

theorem opOf_formatN (op : BitVec 6) : opOf (formatN op) = op := by
  refine BitVec.eq_of_getLsbD_eq fun i hi => ?_
  simp only [opOf, BitVec.getLsbD_extractLsb', getLsbD_formatN, BitVec.getLsbD_append]
  interval_cases i <;> simp

theorem formatN_mask (op : BitVec 6) : formatN op &&& 0xFFFFFFFF#32 = formatN op := BitVec.and_allOnes

/-- The bits of a word of format W (30_encoding.md R72). -/
theorem getLsbD_formatW (op : BitVec 6) (w : Nat) (j : Nat) :
    (formatW op w).getLsbD j = (op ++ BitVec.ofNat 6 (w - 1) ++ 0#20 : BitVec (6+6+20)).getLsbD j := rfl

theorem opOf_formatW (op : BitVec 6) (w : Nat) : opOf (formatW op w) = op := by
  refine BitVec.eq_of_getLsbD_eq fun i hi => ?_
  simp only [opOf, BitVec.getLsbD_extractLsb', getLsbD_formatW, BitVec.getLsbD_append]
  interval_cases i <;> simp

theorem formatW_mask (op : BitVec 6) (w : Nat) : formatW op w &&& 0xFC0FFFFF#32 = formatN op := by
  refine BitVec.eq_of_getLsbD_eq fun i hi => ?_
  simp only [BitVec.getLsbD_and, getLsbD_formatW, getLsbD_formatN, BitVec.getLsbD_append]
  interval_cases i <;> simp

/-- The bits of a word of format S (30_encoding.md R72). -/
theorem getLsbD_formatS (op : BitVec 6) (pos : BitVec 14) (j : Nat) :
    (formatS op pos).getLsbD j = (op ++ 0#12 ++ pos : BitVec (6+12+14)).getLsbD j := rfl

theorem opOf_formatS (op : BitVec 6) (pos : BitVec 14) : opOf (formatS op pos) = op := by
  refine BitVec.eq_of_getLsbD_eq fun i hi => ?_
  simp only [opOf, BitVec.getLsbD_extractLsb', getLsbD_formatS, BitVec.getLsbD_append]
  interval_cases i <;> simp

theorem formatS_mask (op : BitVec 6) (pos : BitVec 14) : formatS op pos &&& 0xFFFFC000#32 = formatN op := by
  refine BitVec.eq_of_getLsbD_eq fun i hi => ?_
  simp only [BitVec.getLsbD_and, getLsbD_formatS, getLsbD_formatN, BitVec.getLsbD_append]
  interval_cases i <;> simp

/-- The bits of a word of format F (30_encoding.md R72). -/
theorem getLsbD_formatF (op : BitVec 6) (idx : BitVec 11) (j : Nat) :
    (formatF op idx).getLsbD j = (op ++ 0#15 ++ idx : BitVec (6+15+11)).getLsbD j := rfl

theorem opOf_formatF (op : BitVec 6) (idx : BitVec 11) : opOf (formatF op idx) = op := by
  refine BitVec.eq_of_getLsbD_eq fun i hi => ?_
  simp only [opOf, BitVec.getLsbD_extractLsb', getLsbD_formatF, BitVec.getLsbD_append]
  interval_cases i <;> simp

theorem formatF_mask (op : BitVec 6) (idx : BitVec 11) : formatF op idx &&& 0xFFFFF800#32 = formatN op := by
  refine BitVec.eq_of_getLsbD_eq fun i hi => ?_
  simp only [BitVec.getLsbD_and, getLsbD_formatF, getLsbD_formatN, BitVec.getLsbD_append]
  interval_cases i <;> simp

/-- The bits of a word of format P (30_encoding.md R72). -/
theorem getLsbD_formatP (op : BitVec 6) (elen : BitVec 10) (emsg : BitVec 12) (j : Nat) :
    (formatP op elen emsg).getLsbD j = (op ++ elen ++ emsg ++ 0#4 : BitVec (6+10+12+4)).getLsbD j := rfl

theorem opOf_formatP (op : BitVec 6) (elen : BitVec 10) (emsg : BitVec 12) : opOf (formatP op elen emsg) = op := by
  refine BitVec.eq_of_getLsbD_eq fun i hi => ?_
  simp only [opOf, BitVec.getLsbD_extractLsb', getLsbD_formatP, BitVec.getLsbD_append]
  interval_cases i <;> simp

theorem formatP_mask (op : BitVec 6) (elen : BitVec 10) (emsg : BitVec 12) : formatP op elen emsg &&& 0xFC00000F#32 = formatN op := by
  refine BitVec.eq_of_getLsbD_eq fun i hi => ?_
  simp only [BitVec.getLsbD_and, getLsbD_formatP, getLsbD_formatN, BitVec.getLsbD_append]
  interval_cases i <;> simp

theorem posOf_formatS (op : BitVec 6) (pos : BitVec 14) : posOf (formatS op pos) = pos := by
  refine BitVec.eq_of_getLsbD_eq fun i hi => ?_
  simp only [posOf, BitVec.getLsbD_extractLsb', getLsbD_formatS, BitVec.getLsbD_append]
  interval_cases i <;> simp

theorem idxOf_formatF (op : BitVec 6) (idx : BitVec 11) : idxOf (formatF op idx) = idx := by
  refine BitVec.eq_of_getLsbD_eq fun i hi => ?_
  simp only [idxOf, BitVec.getLsbD_extractLsb', getLsbD_formatF, BitVec.getLsbD_append]
  interval_cases i <;> simp

theorem elenOf_formatP (op : BitVec 6) (elen : BitVec 10) (emsg : BitVec 12) : elenOf (formatP op elen emsg) = elen := by
  refine BitVec.eq_of_getLsbD_eq fun i hi => ?_
  simp only [elenOf, BitVec.getLsbD_extractLsb', getLsbD_formatP, BitVec.getLsbD_append]
  interval_cases i <;> simp

theorem emsgOf_formatP (op : BitVec 6) (elen : BitVec 10) (emsg : BitVec 12) : emsgOf (formatP op elen emsg) = emsg := by
  refine BitVec.eq_of_getLsbD_eq fun i hi => ?_
  simp only [emsgOf, BitVec.getLsbD_extractLsb', getLsbD_formatP, BitVec.getLsbD_append]
  interval_cases i <;> simp

/-- The widths that can be encoded (30_encoding.md R74). -/
theorem widthOk_iff (w : Nat) : widthOk w = true ↔ 1 ≤ w ∧ w ≤ 64 := by
  simp only [widthOk, Bool.and_eq_true, decide_eq_true_eq]

/-- The width operand of a word of format W is the width it was made with, for a width that can be encoded (30_encoding.md R74). -/
theorem widthOf_formatW (op : BitVec 6) (w : Nat) (h : widthOk w = true) : widthOf (formatW op w) = w := by
  have e : (formatW op w).extractLsb' 20 6 = BitVec.ofNat 6 (w - 1) := by
    refine BitVec.eq_of_getLsbD_eq fun i hi => ?_
    simp only [BitVec.getLsbD_extractLsb', getLsbD_formatW, BitVec.getLsbD_append]
    interval_cases i <;> simp
  have hw : 1 ≤ w ∧ w ≤ 64 := (widthOk_iff w).mp h
  rw [widthOf, e, BitVec.toNat_ofNat, Nat.mod_eq_of_lt (by omega)]
  omega

/-- No two rows share an OP (30_encoding.md R80). -/
theorem opRows_distinct : opRows.Pairwise (fun r q => r.op ≠ q.op) := by decide

/-- A row's match has the row's OP, lies under its mask, and its mask covers OP (30_encoding.md R79). -/
theorem opRows_sound :
    ∀ r ∈ opRows, opOf r.fixed = r.op ∧ r.fixed &&& r.mask = r.fixed ∧ opOf r.mask = 0x3F#6 := by decide

end Sys2Proof
end

