-- ==== Sys2Proof/Laws/State.lean ====
section
/-!
SUPPORT. What each named update of State does to each field: one lemma per field per update.
-/

namespace Sys2Proof.Machine

section SetDin
variable (s : State) (v : DWord)
@[simp] theorem State.setDin_din : (s.setDin v).din = v := rfl
@[simp] theorem State.setDin_dout : (s.setDin v).dout = s.dout := rfl
@[simp] theorem State.setDin_status : (s.setDin v).status = s.status := rfl
@[simp] theorem State.setDin_crc : (s.setDin v).crc = s.crc := rfl
@[simp] theorem State.setDin_txb : (s.setDin v).txb = s.txb := rfl
@[simp] theorem State.setDin_txlen : (s.setDin v).txlen = s.txlen := rfl
@[simp] theorem State.setDin_frb : (s.setDin v).frb = s.frb := rfl
@[simp] theorem State.setDin_frlen : (s.setDin v).frlen = s.frlen := rfl
@[simp] theorem State.setDin_rxb : (s.setDin v).rxb = s.rxb := rfl
@[simp] theorem State.setDin_rxlen : (s.setDin v).rxlen = s.rxlen := rfl
@[simp] theorem State.setDin_cur : (s.setDin v).cur = s.cur := rfl
@[simp] theorem State.setDin_msg : (s.setDin v).msg = s.msg := rfl
@[simp] theorem State.setDin_plen : (s.setDin v).plen = s.plen := rfl
@[simp] theorem State.setDin_script : (s.setDin v).script = s.script := rfl
@[simp] theorem State.setDin_pc : (s.setDin v).pc = s.pc := rfl
@[simp] theorem State.setDin_replies : (s.setDin v).replies = s.replies := rfl
end SetDin

section SetDout
variable (s : State) (v : DWord)
@[simp] theorem State.setDout_din : (s.setDout v).din = s.din := rfl
@[simp] theorem State.setDout_dout : (s.setDout v).dout = v := rfl
@[simp] theorem State.setDout_status : (s.setDout v).status = s.status := rfl
@[simp] theorem State.setDout_crc : (s.setDout v).crc = s.crc := rfl
@[simp] theorem State.setDout_txb : (s.setDout v).txb = s.txb := rfl
@[simp] theorem State.setDout_txlen : (s.setDout v).txlen = s.txlen := rfl
@[simp] theorem State.setDout_frb : (s.setDout v).frb = s.frb := rfl
@[simp] theorem State.setDout_frlen : (s.setDout v).frlen = s.frlen := rfl
@[simp] theorem State.setDout_rxb : (s.setDout v).rxb = s.rxb := rfl
@[simp] theorem State.setDout_rxlen : (s.setDout v).rxlen = s.rxlen := rfl
@[simp] theorem State.setDout_cur : (s.setDout v).cur = s.cur := rfl
@[simp] theorem State.setDout_msg : (s.setDout v).msg = s.msg := rfl
@[simp] theorem State.setDout_plen : (s.setDout v).plen = s.plen := rfl
@[simp] theorem State.setDout_script : (s.setDout v).script = s.script := rfl
@[simp] theorem State.setDout_pc : (s.setDout v).pc = s.pc := rfl
@[simp] theorem State.setDout_replies : (s.setDout v).replies = s.replies := rfl
end SetDout

section SetStatus
variable (s : State) (v : BitVec 32)
@[simp] theorem State.setStatus_din : (s.setStatus v).din = s.din := rfl
@[simp] theorem State.setStatus_dout : (s.setStatus v).dout = s.dout := rfl
@[simp] theorem State.setStatus_status : (s.setStatus v).status = v := rfl
@[simp] theorem State.setStatus_crc : (s.setStatus v).crc = s.crc := rfl
@[simp] theorem State.setStatus_txb : (s.setStatus v).txb = s.txb := rfl
@[simp] theorem State.setStatus_txlen : (s.setStatus v).txlen = s.txlen := rfl
@[simp] theorem State.setStatus_frb : (s.setStatus v).frb = s.frb := rfl
@[simp] theorem State.setStatus_frlen : (s.setStatus v).frlen = s.frlen := rfl
@[simp] theorem State.setStatus_rxb : (s.setStatus v).rxb = s.rxb := rfl
@[simp] theorem State.setStatus_rxlen : (s.setStatus v).rxlen = s.rxlen := rfl
@[simp] theorem State.setStatus_cur : (s.setStatus v).cur = s.cur := rfl
@[simp] theorem State.setStatus_msg : (s.setStatus v).msg = s.msg := rfl
@[simp] theorem State.setStatus_plen : (s.setStatus v).plen = s.plen := rfl
@[simp] theorem State.setStatus_script : (s.setStatus v).script = s.script := rfl
@[simp] theorem State.setStatus_pc : (s.setStatus v).pc = s.pc := rfl
@[simp] theorem State.setStatus_replies : (s.setStatus v).replies = s.replies := rfl
end SetStatus

section SetCrc
variable (s : State) (v : BitVec 24)
@[simp] theorem State.setCrc_din : (s.setCrc v).din = s.din := rfl
@[simp] theorem State.setCrc_dout : (s.setCrc v).dout = s.dout := rfl
@[simp] theorem State.setCrc_status : (s.setCrc v).status = s.status := rfl
@[simp] theorem State.setCrc_crc : (s.setCrc v).crc = v := rfl
@[simp] theorem State.setCrc_txb : (s.setCrc v).txb = s.txb := rfl
@[simp] theorem State.setCrc_txlen : (s.setCrc v).txlen = s.txlen := rfl
@[simp] theorem State.setCrc_frb : (s.setCrc v).frb = s.frb := rfl
@[simp] theorem State.setCrc_frlen : (s.setCrc v).frlen = s.frlen := rfl
@[simp] theorem State.setCrc_rxb : (s.setCrc v).rxb = s.rxb := rfl
@[simp] theorem State.setCrc_rxlen : (s.setCrc v).rxlen = s.rxlen := rfl
@[simp] theorem State.setCrc_cur : (s.setCrc v).cur = s.cur := rfl
@[simp] theorem State.setCrc_msg : (s.setCrc v).msg = s.msg := rfl
@[simp] theorem State.setCrc_plen : (s.setCrc v).plen = s.plen := rfl
@[simp] theorem State.setCrc_script : (s.setCrc v).script = s.script := rfl
@[simp] theorem State.setCrc_pc : (s.setCrc v).pc = s.pc := rfl
@[simp] theorem State.setCrc_replies : (s.setCrc v).replies = s.replies := rfl
end SetCrc

section SetTx
variable (s : State) (b : BitString) (n : BitVec 14)
@[simp] theorem State.setTx_din : (s.setTx b n).din = s.din := rfl
@[simp] theorem State.setTx_dout : (s.setTx b n).dout = s.dout := rfl
@[simp] theorem State.setTx_status : (s.setTx b n).status = s.status := rfl
@[simp] theorem State.setTx_crc : (s.setTx b n).crc = s.crc := rfl
@[simp] theorem State.setTx_txb : (s.setTx b n).txb = b := rfl
@[simp] theorem State.setTx_txlen : (s.setTx b n).txlen = n := rfl
@[simp] theorem State.setTx_frb : (s.setTx b n).frb = s.frb := rfl
@[simp] theorem State.setTx_frlen : (s.setTx b n).frlen = s.frlen := rfl
@[simp] theorem State.setTx_rxb : (s.setTx b n).rxb = s.rxb := rfl
@[simp] theorem State.setTx_rxlen : (s.setTx b n).rxlen = s.rxlen := rfl
@[simp] theorem State.setTx_cur : (s.setTx b n).cur = s.cur := rfl
@[simp] theorem State.setTx_msg : (s.setTx b n).msg = s.msg := rfl
@[simp] theorem State.setTx_plen : (s.setTx b n).plen = s.plen := rfl
@[simp] theorem State.setTx_script : (s.setTx b n).script = s.script := rfl
@[simp] theorem State.setTx_pc : (s.setTx b n).pc = s.pc := rfl
@[simp] theorem State.setTx_replies : (s.setTx b n).replies = s.replies := rfl
end SetTx

section SetFr
variable (s : State) (m : Memory) (n : BitVec 11)
@[simp] theorem State.setFr_din : (s.setFr m n).din = s.din := rfl
@[simp] theorem State.setFr_dout : (s.setFr m n).dout = s.dout := rfl
@[simp] theorem State.setFr_status : (s.setFr m n).status = s.status := rfl
@[simp] theorem State.setFr_crc : (s.setFr m n).crc = s.crc := rfl
@[simp] theorem State.setFr_txb : (s.setFr m n).txb = s.txb := rfl
@[simp] theorem State.setFr_txlen : (s.setFr m n).txlen = s.txlen := rfl
@[simp] theorem State.setFr_frb : (s.setFr m n).frb = m := rfl
@[simp] theorem State.setFr_frlen : (s.setFr m n).frlen = n := rfl
@[simp] theorem State.setFr_rxb : (s.setFr m n).rxb = s.rxb := rfl
@[simp] theorem State.setFr_rxlen : (s.setFr m n).rxlen = s.rxlen := rfl
@[simp] theorem State.setFr_cur : (s.setFr m n).cur = s.cur := rfl
@[simp] theorem State.setFr_msg : (s.setFr m n).msg = s.msg := rfl
@[simp] theorem State.setFr_plen : (s.setFr m n).plen = s.plen := rfl
@[simp] theorem State.setFr_script : (s.setFr m n).script = s.script := rfl
@[simp] theorem State.setFr_pc : (s.setFr m n).pc = s.pc := rfl
@[simp] theorem State.setFr_replies : (s.setFr m n).replies = s.replies := rfl
end SetFr

section SetRx
variable (s : State) (m : Memory) (n : BitVec 11)
@[simp] theorem State.setRx_din : (s.setRx m n).din = s.din := rfl
@[simp] theorem State.setRx_dout : (s.setRx m n).dout = s.dout := rfl
@[simp] theorem State.setRx_status : (s.setRx m n).status = s.status := rfl
@[simp] theorem State.setRx_crc : (s.setRx m n).crc = s.crc := rfl
@[simp] theorem State.setRx_txb : (s.setRx m n).txb = s.txb := rfl
@[simp] theorem State.setRx_txlen : (s.setRx m n).txlen = s.txlen := rfl
@[simp] theorem State.setRx_frb : (s.setRx m n).frb = s.frb := rfl
@[simp] theorem State.setRx_frlen : (s.setRx m n).frlen = s.frlen := rfl
@[simp] theorem State.setRx_rxb : (s.setRx m n).rxb = m := rfl
@[simp] theorem State.setRx_rxlen : (s.setRx m n).rxlen = n := rfl
@[simp] theorem State.setRx_cur : (s.setRx m n).cur = s.cur := rfl
@[simp] theorem State.setRx_msg : (s.setRx m n).msg = s.msg := rfl
@[simp] theorem State.setRx_plen : (s.setRx m n).plen = s.plen := rfl
@[simp] theorem State.setRx_script : (s.setRx m n).script = s.script := rfl
@[simp] theorem State.setRx_pc : (s.setRx m n).pc = s.pc := rfl
@[simp] theorem State.setRx_replies : (s.setRx m n).replies = s.replies := rfl
end SetRx

section SetCur
variable (s : State) (v : BitVec 14)
@[simp] theorem State.setCur_din : (s.setCur v).din = s.din := rfl
@[simp] theorem State.setCur_dout : (s.setCur v).dout = s.dout := rfl
@[simp] theorem State.setCur_status : (s.setCur v).status = s.status := rfl
@[simp] theorem State.setCur_crc : (s.setCur v).crc = s.crc := rfl
@[simp] theorem State.setCur_txb : (s.setCur v).txb = s.txb := rfl
@[simp] theorem State.setCur_txlen : (s.setCur v).txlen = s.txlen := rfl
@[simp] theorem State.setCur_frb : (s.setCur v).frb = s.frb := rfl
@[simp] theorem State.setCur_frlen : (s.setCur v).frlen = s.frlen := rfl
@[simp] theorem State.setCur_rxb : (s.setCur v).rxb = s.rxb := rfl
@[simp] theorem State.setCur_rxlen : (s.setCur v).rxlen = s.rxlen := rfl
@[simp] theorem State.setCur_cur : (s.setCur v).cur = v := rfl
@[simp] theorem State.setCur_msg : (s.setCur v).msg = s.msg := rfl
@[simp] theorem State.setCur_plen : (s.setCur v).plen = s.plen := rfl
@[simp] theorem State.setCur_script : (s.setCur v).script = s.script := rfl
@[simp] theorem State.setCur_pc : (s.setCur v).pc = s.pc := rfl
@[simp] theorem State.setCur_replies : (s.setCur v).replies = s.replies := rfl
end SetCur

section SetParsed
variable (s : State) (m : BitVec 12) (l : BitVec 10)
@[simp] theorem State.setParsed_din : (s.setParsed m l).din = s.din := rfl
@[simp] theorem State.setParsed_dout : (s.setParsed m l).dout = s.dout := rfl
@[simp] theorem State.setParsed_status : (s.setParsed m l).status = s.status := rfl
@[simp] theorem State.setParsed_crc : (s.setParsed m l).crc = s.crc := rfl
@[simp] theorem State.setParsed_txb : (s.setParsed m l).txb = s.txb := rfl
@[simp] theorem State.setParsed_txlen : (s.setParsed m l).txlen = s.txlen := rfl
@[simp] theorem State.setParsed_frb : (s.setParsed m l).frb = s.frb := rfl
@[simp] theorem State.setParsed_frlen : (s.setParsed m l).frlen = s.frlen := rfl
@[simp] theorem State.setParsed_rxb : (s.setParsed m l).rxb = s.rxb := rfl
@[simp] theorem State.setParsed_rxlen : (s.setParsed m l).rxlen = s.rxlen := rfl
@[simp] theorem State.setParsed_cur : (s.setParsed m l).cur = s.cur := rfl
@[simp] theorem State.setParsed_msg : (s.setParsed m l).msg = m := rfl
@[simp] theorem State.setParsed_plen : (s.setParsed m l).plen = l := rfl
@[simp] theorem State.setParsed_script : (s.setParsed m l).script = s.script := rfl
@[simp] theorem State.setParsed_pc : (s.setParsed m l).pc = s.pc := rfl
@[simp] theorem State.setParsed_replies : (s.setParsed m l).replies = s.replies := rfl
end SetParsed

section Advance
variable (s : State)
@[simp] theorem State.advance_din : (s.advance).din = s.din := rfl
@[simp] theorem State.advance_dout : (s.advance).dout = s.dout := rfl
@[simp] theorem State.advance_status : (s.advance).status = s.status := rfl
@[simp] theorem State.advance_crc : (s.advance).crc = s.crc := rfl
@[simp] theorem State.advance_txb : (s.advance).txb = s.txb := rfl
@[simp] theorem State.advance_txlen : (s.advance).txlen = s.txlen := rfl
@[simp] theorem State.advance_frb : (s.advance).frb = s.frb := rfl
@[simp] theorem State.advance_frlen : (s.advance).frlen = s.frlen := rfl
@[simp] theorem State.advance_rxb : (s.advance).rxb = s.rxb := rfl
@[simp] theorem State.advance_rxlen : (s.advance).rxlen = s.rxlen := rfl
@[simp] theorem State.advance_cur : (s.advance).cur = s.cur := rfl
@[simp] theorem State.advance_msg : (s.advance).msg = s.msg := rfl
@[simp] theorem State.advance_plen : (s.advance).plen = s.plen := rfl
@[simp] theorem State.advance_script : (s.advance).script = s.script := rfl
@[simp] theorem State.advance_pc : (s.advance).pc = s.pc + 1 := rfl
@[simp] theorem State.advance_replies : (s.advance).replies = s.replies := rfl
end Advance

section Reply
variable (s : State) (v : DWord)
@[simp] theorem State.reply_din : (s.reply v).din = s.din := rfl
@[simp] theorem State.reply_dout : (s.reply v).dout = s.dout := rfl
@[simp] theorem State.reply_status : (s.reply v).status = s.status := rfl
@[simp] theorem State.reply_crc : (s.reply v).crc = s.crc := rfl
@[simp] theorem State.reply_txb : (s.reply v).txb = s.txb := rfl
@[simp] theorem State.reply_txlen : (s.reply v).txlen = s.txlen := rfl
@[simp] theorem State.reply_frb : (s.reply v).frb = s.frb := rfl
@[simp] theorem State.reply_frlen : (s.reply v).frlen = s.frlen := rfl
@[simp] theorem State.reply_rxb : (s.reply v).rxb = s.rxb := rfl
@[simp] theorem State.reply_rxlen : (s.reply v).rxlen = s.rxlen := rfl
@[simp] theorem State.reply_cur : (s.reply v).cur = s.cur := rfl
@[simp] theorem State.reply_msg : (s.reply v).msg = s.msg := rfl
@[simp] theorem State.reply_plen : (s.reply v).plen = s.plen := rfl
@[simp] theorem State.reply_script : (s.reply v).script = s.script := rfl
@[simp] theorem State.reply_pc : (s.reply v).pc = s.pc := rfl
@[simp] theorem State.reply_replies : (s.reply v).replies = s.replies ++ [v] := rfl
end Reply

end Sys2Proof.Machine
end

