-- ==== Sys2Proof/Laws/Flags.lean ====
section
/-!
SUPPORT. What the STATUS operations do to each field of State, and to the parts of STATUS.
-/

namespace Sys2Proof.Machine

section SetRc
variable (c : ResultCode) (s : State)
@[simp] theorem setRc_din : (setRc c s).din = s.din := rfl
@[simp] theorem setRc_dout : (setRc c s).dout = s.dout := rfl
@[simp] theorem setRc_status : (setRc c s).status = statusWithRc s.status c := rfl
@[simp] theorem setRc_crc : (setRc c s).crc = s.crc := rfl
@[simp] theorem setRc_txb : (setRc c s).txb = s.txb := rfl
@[simp] theorem setRc_txlen : (setRc c s).txlen = s.txlen := rfl
@[simp] theorem setRc_frb : (setRc c s).frb = s.frb := rfl
@[simp] theorem setRc_frlen : (setRc c s).frlen = s.frlen := rfl
@[simp] theorem setRc_rxb : (setRc c s).rxb = s.rxb := rfl
@[simp] theorem setRc_rxlen : (setRc c s).rxlen = s.rxlen := rfl
@[simp] theorem setRc_cur : (setRc c s).cur = s.cur := rfl
@[simp] theorem setRc_msg : (setRc c s).msg = s.msg := rfl
@[simp] theorem setRc_plen : (setRc c s).plen = s.plen := rfl
@[simp] theorem setRc_script : (setRc c s).script = s.script := rfl
@[simp] theorem setRc_pc : (setRc c s).pc = s.pc := rfl
@[simp] theorem setRc_replies : (setRc c s).replies = s.replies := rfl
end SetRc

section Warn
variable (f : Warning) (s : State)
@[simp] theorem warn_din : (warn f s).din = s.din := rfl
@[simp] theorem warn_dout : (warn f s).dout = s.dout := rfl
@[simp] theorem warn_status : (warn f s).status = statusWithWarning s.status f := rfl
@[simp] theorem warn_crc : (warn f s).crc = s.crc := rfl
@[simp] theorem warn_txb : (warn f s).txb = s.txb := rfl
@[simp] theorem warn_txlen : (warn f s).txlen = s.txlen := rfl
@[simp] theorem warn_frb : (warn f s).frb = s.frb := rfl
@[simp] theorem warn_frlen : (warn f s).frlen = s.frlen := rfl
@[simp] theorem warn_rxb : (warn f s).rxb = s.rxb := rfl
@[simp] theorem warn_rxlen : (warn f s).rxlen = s.rxlen := rfl
@[simp] theorem warn_cur : (warn f s).cur = s.cur := rfl
@[simp] theorem warn_msg : (warn f s).msg = s.msg := rfl
@[simp] theorem warn_plen : (warn f s).plen = s.plen := rfl
@[simp] theorem warn_script : (warn f s).script = s.script := rfl
@[simp] theorem warn_pc : (warn f s).pc = s.pc := rfl
@[simp] theorem warn_replies : (warn f s).replies = s.replies := rfl
end Warn

section ClearWarnings
variable (s : State)
@[simp] theorem clearWarnings_din : (clearWarnings s).din = s.din := rfl
@[simp] theorem clearWarnings_dout : (clearWarnings s).dout = s.dout := rfl
@[simp] theorem clearWarnings_status : (clearWarnings s).status = statusNoWarnings s.status := rfl
@[simp] theorem clearWarnings_crc : (clearWarnings s).crc = s.crc := rfl
@[simp] theorem clearWarnings_txb : (clearWarnings s).txb = s.txb := rfl
@[simp] theorem clearWarnings_txlen : (clearWarnings s).txlen = s.txlen := rfl
@[simp] theorem clearWarnings_frb : (clearWarnings s).frb = s.frb := rfl
@[simp] theorem clearWarnings_frlen : (clearWarnings s).frlen = s.frlen := rfl
@[simp] theorem clearWarnings_rxb : (clearWarnings s).rxb = s.rxb := rfl
@[simp] theorem clearWarnings_rxlen : (clearWarnings s).rxlen = s.rxlen := rfl
@[simp] theorem clearWarnings_cur : (clearWarnings s).cur = s.cur := rfl
@[simp] theorem clearWarnings_msg : (clearWarnings s).msg = s.msg := rfl
@[simp] theorem clearWarnings_plen : (clearWarnings s).plen = s.plen := rfl
@[simp] theorem clearWarnings_script : (clearWarnings s).script = s.script := rfl
@[simp] theorem clearWarnings_pc : (clearWarnings s).pc = s.pc := rfl
@[simp] theorem clearWarnings_replies : (clearWarnings s).replies = s.replies := rfl
end ClearWarnings

section WarnIf
variable (c : Bool) (f : Warning) (s : State)
@[simp] theorem warnIf_din : (warnIf c f s).din = s.din := by cases c <;> rfl
@[simp] theorem warnIf_dout : (warnIf c f s).dout = s.dout := by cases c <;> rfl
@[simp] theorem warnIf_status : (warnIf c f s).status = if c then statusWithWarning s.status f else s.status := by cases c <;> rfl
@[simp] theorem warnIf_crc : (warnIf c f s).crc = s.crc := by cases c <;> rfl
@[simp] theorem warnIf_txb : (warnIf c f s).txb = s.txb := by cases c <;> rfl
@[simp] theorem warnIf_txlen : (warnIf c f s).txlen = s.txlen := by cases c <;> rfl
@[simp] theorem warnIf_frb : (warnIf c f s).frb = s.frb := by cases c <;> rfl
@[simp] theorem warnIf_frlen : (warnIf c f s).frlen = s.frlen := by cases c <;> rfl
@[simp] theorem warnIf_rxb : (warnIf c f s).rxb = s.rxb := by cases c <;> rfl
@[simp] theorem warnIf_rxlen : (warnIf c f s).rxlen = s.rxlen := by cases c <;> rfl
@[simp] theorem warnIf_cur : (warnIf c f s).cur = s.cur := by cases c <;> rfl
@[simp] theorem warnIf_msg : (warnIf c f s).msg = s.msg := by cases c <;> rfl
@[simp] theorem warnIf_plen : (warnIf c f s).plen = s.plen := by cases c <;> rfl
@[simp] theorem warnIf_script : (warnIf c f s).script = s.script := by cases c <;> rfl
@[simp] theorem warnIf_pc : (warnIf c f s).pc = s.pc := by cases c <;> rfl
@[simp] theorem warnIf_replies : (warnIf c f s).replies = s.replies := by cases c <;> rfl
end WarnIf

/-- RC ← OK clears the RC bits and nothing else. -/
theorem statusWithRc_ok (st : BitVec 32) : statusWithRc st .ok = st &&& 0xFFFFFFF0#32 := by
  simp [statusWithRc, resultNumber]

/-- RC after it is written is the code written (10_state.md R24). -/
@[simp] theorem rcOf_statusWithRc (st : BitVec 32) (c : ResultCode) :
    rcOf (statusWithRc st c) = (resultNumber c).setWidth 4 := by
  refine BitVec.eq_of_getElem_eq fun i hi => ?_
  simp only [rcOf, statusWithRc, BitVec.getElem_extractLsb', BitVec.getLsbD_or, BitVec.getLsbD_and, Nat.zero_add,
    BitVec.getElem_setWidth]
  have h : (0xFFFFFFF0#32).getLsbD i = false := by interval_cases i <;> rfl
  rw [h, Bool.and_false, Bool.false_or]

/-- Writing RC leaves every other bit of STATUS as it was. -/
theorem statusWithRc_high (st : BitVec 32) (c : ResultCode) (i : Nat) (h : 4 ≤ i) :
    (statusWithRc st c).getLsbD i = st.getLsbD i := by
  by_cases hi : i < 32
  · have h1 : (0xFFFFFFF0#32).getLsbD i = true := by interval_cases i <;> rfl
    have h2 : (resultNumber c).getLsbD i = false := by cases c <;> interval_cases i <;> rfl
    rw [statusWithRc, BitVec.getLsbD_or, BitVec.getLsbD_and, h1, h2, Bool.and_true, Bool.or_false]
  · simp [BitVec.getLsbD_of_ge _ _ (Nat.le_of_not_lt hi)]

/-- A warning flag is set after `warn` (10_state.md R25). -/
@[simp] theorem warningSet_statusWithWarning (st : BitVec 32) (f : Warning) :
    warningSet (statusWithWarning st f) f = true := by
  have h : (st ||| warningMask f) &&& warningMask f = warningMask f := by
    ext i hi
    simp only [BitVec.getElem_and, BitVec.getElem_or]
    cases st[i] <;> cases (warningMask f)[i] <;> rfl
  unfold warningSet statusWithWarning
  rw [h]
  cases f <;> decide

end Sys2Proof.Machine
end

