-- ==== Sys2Proof/Laws/Memory.lean ====
section
/-!
SUPPORT. The laws of the byte buffers: a read after a write, and that every operation keeps the canonical form and the bounds.
-/

namespace Sys2Proof.Machine

@[simp] theorem Memory.read_nil (a : Nat) : Memory.read [] a = Memory.blank := rfl

/-- An address below every listed one reads as the blank byte. -/
theorem Memory.read_of_lt (m : Memory) (a : Nat) (h : ∀ c ∈ m, a < c.1) : m.read a = Memory.blank := by
  induction m with
  | nil => rfl
  | cons c m ih =>
    have hc := h c (by simp)
    rw [Memory.read, if_neg (by omega), ih (fun d hd => h d (by simp [hd]))]

/-- A write leaves every other address alone. -/
theorem Memory.read_write_other (m : Memory) (a b : Nat) (v : Byte) (h : b ≠ a) :
    (m.write a v).read b = m.read b := by
  induction m with
  | nil =>
    simp only [Memory.write]
    split
    · rfl
    · simp [Memory.read, Ne.symm h]
  | cons c m ih =>
    simp only [Memory.write]
    split
    · split
      · rfl
      · simp [Memory.read, Ne.symm h]
    · split
      · rename_i h1
        split <;> simp [Memory.read, ← h1, Ne.symm h]
      · simp only [Memory.read, ih]

/-- A read after a write to the same address gives the value written. -/
theorem Memory.read_write_same (m : Memory) (a : Nat) (v : Byte) (h : m.wf) : (m.write a v).read a = v := by
  obtain ⟨hp, hb⟩ := h
  induction m with
  | nil => simp only [Memory.write]; split <;> simp_all [Memory.read]
  | cons c m ih =>
    rw [List.pairwise_cons] at hp
    simp only [Memory.write]
    split
    · rename_i h1
      split
      · rename_i h2
        rw [h2]
        refine Memory.read_of_lt _ _ (fun d hd => ?_)
        rcases List.mem_cons.mp hd with rfl | hd
        · exact h1
        · exact lt_trans h1 (hp.1 d hd)
      · simp [Memory.read]
    · split
      · rename_i h1 h2
        split
        · rename_i h3
          rw [h3]
          exact Memory.read_of_lt _ _ (fun d hd => by have := hp.1 d hd; omega)
        · simp [Memory.read]
      · rename_i h1 h2
        simp only [Memory.read, if_neg (Ne.symm h2)]
        exact ih hp.2 (fun d hd => hb d (by simp [hd]))

/-- What a write lists: the written byte or an entry that stood there. -/
theorem Memory.mem_write (m : Memory) (a : Nat) (v : Byte) (c : Host.Cell) (h : c ∈ m.write a v) :
    (c = (a, v) ∧ v ≠ Memory.blank) ∨ c ∈ m := by
  induction m with
  | nil =>
    simp only [Memory.write] at h
    split at h <;> simp_all
  | cons d m ih =>
    simp only [Memory.write] at h
    split at h
    · split at h
      · exact .inr h
      · rcases List.mem_cons.mp h with rfl | h
        · exact .inl ⟨rfl, ‹_›⟩
        · exact .inr h
    · split at h
      · split at h
        · exact .inr (List.mem_cons_of_mem _ h)
        · rcases List.mem_cons.mp h with rfl | h
          · exact .inl ⟨rfl, ‹_›⟩
          · exact .inr (List.mem_cons_of_mem _ h)
      · rcases List.mem_cons.mp h with rfl | h
        · exact .inr (by simp)
        · exact (ih h).imp id (List.mem_cons_of_mem _)

/-- A write keeps the canonical form. -/
theorem Memory.wf_write (m : Memory) (a : Nat) (v : Byte) (h : m.wf) : (m.write a v).wf := by
  refine ⟨?_, fun c hc => ?_⟩
  · obtain ⟨hp, hb⟩ := h
    induction m with
    | nil => simp only [Memory.write]; split <;> simp
    | cons c m ih =>
      have hp' := List.pairwise_cons.mp hp
      simp only [Memory.write]
      split
      · rename_i h1
        split
        · exact hp
        · refine List.pairwise_cons.mpr ⟨fun d hd => ?_, hp⟩
          rcases List.mem_cons.mp hd with rfl | hd
          · exact h1
          · exact lt_trans h1 (hp'.1 d hd)
      · split
        · rename_i h1 h2
          split
          · exact hp'.2
          · exact List.pairwise_cons.mpr ⟨fun d hd => by have := hp'.1 d hd; simp; omega, hp'.2⟩
        · refine List.pairwise_cons.mpr ⟨fun d hd => ?_, ih hp'.2 (fun d hd => hb d (by simp [hd]))⟩
          rcases Memory.mem_write m a v d hd with ⟨rfl, -⟩ | hd
          · simp; omega
          · exact hp'.1 d hd
  · rcases Memory.mem_write m a v c hc with ⟨rfl, hv⟩ | hc
    · exact hv
    · exact h.2 c hc

/-- Writing a list of bytes keeps the canonical form. -/
theorem Memory.wf_writeBytes (m : Memory) (a : Nat) (B : List Byte) (h : m.wf) : (m.writeBytes a B).wf := by
  induction B generalizing m a with
  | nil => exact h
  | cons b B ih => exact ih _ _ (Memory.wf_write m a b h)

/-- What a run of writes lists: addresses of the run, or entries that stood there. -/
theorem Memory.mem_writeBytes (m : Memory) (a : Nat) (B : List Byte) (c : Host.Cell) (h : c ∈ m.writeBytes a B) :
    (a ≤ c.1 ∧ c.1 < a + B.length) ∨ c ∈ m := by
  induction B generalizing m a with
  | nil => exact .inr h
  | cons b B ih =>
    rcases ih _ _ h with ⟨h1, h2⟩ | hm
    · exact .inl ⟨by omega, by simp only [List.length_cons]; omega⟩
    · rcases Memory.mem_write m a b c hm with ⟨rfl, -⟩ | hm
      · exact .inl ⟨le_refl _, by simp⟩
      · exact .inr hm

/-- Writing a list of bytes leaves every address outside it alone. -/
theorem Memory.read_writeBytes_other (m : Memory) (a : Nat) (B : List Byte) (b : Nat)
    (h : b < a ∨ a + B.length ≤ b) : (m.writeBytes a B).read b = m.read b := by
  induction B generalizing m a with
  | nil => rfl
  | cons x B ih =>
    simp only [List.length_cons] at h
    rw [Memory.writeBytes, ih _ _ (by omega), Memory.read_write_other _ _ _ _ (by omega)]

/-- Reading back a byte of a list that was written. -/
theorem Memory.read_writeBytes (m : Memory) (a : Nat) (B : List Byte) (i : Nat) (hi : i < B.length) (h : m.wf) :
    (m.writeBytes a B).read (a + i) = B[i] := by
  induction B generalizing m a i with
  | nil => simp at hi
  | cons x B ih =>
    cases i with
    | zero =>
      rw [Memory.writeBytes, Memory.read_writeBytes_other _ _ _ _ (by omega), Nat.add_zero, Memory.read_write_same _ _ _ h]
      rfl
    | succ i =>
      have := ih (m.write a x) (a + 1) i (by simpa using hi) (Memory.wf_write m a x h)
      rw [Memory.writeBytes, show a + (i + 1) = a + 1 + i by omega, this, List.getElem_cons_succ]

@[simp] theorem Memory.length_readBytes (m : Memory) (a n : Nat) : (m.readBytes a n).length = n := by
  induction n generalizing a with
  | zero => rfl
  | succ n ih => simp [Memory.readBytes, ih]

/-- Position i of a run of reads is the byte at that address. -/
theorem Memory.getElem_readBytes (m : Memory) (a n i : Nat) (h : i < (m.readBytes a n).length) :
    (m.readBytes a n)[i] = m.read (a + i) := by
  induction n generalizing a i with
  | zero => simp at h
  | succ n ih =>
    cases i with
    | zero => simp [Memory.readBytes]
    | succ i =>
      simp only [Memory.readBytes, List.getElem_cons_succ]
      rw [ih (a + 1) i (by simpa using h)]
      congr 1
      omega

/-- Reading back a whole list that was written. -/
theorem Memory.readBytes_writeBytes (m : Memory) (a : Nat) (B : List Byte) (h : m.wf) :
    (m.writeBytes a B).readBytes a B.length = B := by
  refine List.ext_getElem (by simp) (fun i h1 h2 => ?_)
  rw [Memory.getElem_readBytes, Memory.read_writeBytes _ _ _ _ h2 h]

/-- Every listed entry is what its address reads as. -/
theorem Memory.read_of_mem (m : Memory) (h : m.wf) (c : Host.Cell) (hc : c ∈ m) : m.read c.1 = c.2 := by
  induction m with
  | nil => simp at hc
  | cons d m ih =>
    obtain ⟨hp, hb⟩ := h
    rw [List.pairwise_cons] at hp
    rcases List.mem_cons.mp hc with rfl | hc
    · simp [Memory.read]
    · rw [Memory.read, if_neg (Nat.ne_of_lt (hp.1 c hc))]
      exact ih ⟨hp.2, fun e he => hb e (by simp [he])⟩ hc

/-- Canonical buffers that read alike are equal data. -/
theorem Memory.eq_of_read_eq (m n : Memory) (hm : m.wf) (hn : n.wf) (h : ∀ a, m.read a = n.read a) : m = n := by
  induction m generalizing n with
  | nil =>
    cases n with
    | nil => rfl
    | cons d n =>
      have := h d.1
      rw [Memory.read_of_mem _ hn d (by simp)] at this
      exact absurd this.symm (hn.2 d (by simp))
  | cons c m ih =>
    cases n with
    | nil =>
      have := h c.1
      rw [Memory.read_of_mem _ hm c (by simp)] at this
      exact absurd this (hm.2 c (by simp))
    | cons d n =>
      have pm := List.pairwise_cons.mp hm.1
      have pn := List.pairwise_cons.mp hn.1
      have key : c.1 = d.1 := by
        rcases lt_trichotomy c.1 d.1 with hl | he | hl
        · have := h c.1
          rw [Memory.read_of_mem _ hm c (by simp), Memory.read_of_lt _ _ (fun e he => by
            rcases List.mem_cons.mp he with rfl | he
            · exact hl
            · exact lt_trans hl (pn.1 e he))] at this
          exact absurd this (hm.2 c (by simp))
        · exact he
        · have := h d.1
          rw [Memory.read_of_mem _ hn d (by simp), Memory.read_of_lt _ _ (fun e he => by
            rcases List.mem_cons.mp he with rfl | he
            · exact hl
            · exact lt_trans hl (pm.1 e he))] at this
          exact absurd this.symm (hn.2 d (by simp))
      have key2 : c.2 = d.2 := by
        have := h c.1
        rw [Memory.read_of_mem _ hm c (by simp), key, Memory.read_of_mem _ hn d (by simp)] at this
        exact this
      have hcd : c = d := Prod.ext key key2
      subst hcd
      congr 1
      refine ih n ⟨pm.2, fun e he => hm.2 e (by simp [he])⟩ ⟨pn.2, fun e he => hn.2 e (by simp [he])⟩ fun a => ?_
      by_cases ha : a ≤ c.1
      · rw [Memory.read_of_lt, Memory.read_of_lt]
        · intro e he; exact lt_of_le_of_lt ha (pn.1 e he)
        · intro e he; exact lt_of_le_of_lt ha (pm.1 e he)
      · have := h a
        rwa [Memory.read, Memory.read, if_neg (by omega), if_neg (by omega)] at this

/-- The buffers after reset are canonical (10_state.md R37). -/
theorem State.reset_buffers_wf : State.reset.frb.wf ∧ State.reset.rxb.wf := by decide

end Sys2Proof.Machine
end

