-- ==== Sys2Proof/Laws/Ops.lean ====
section
/-!
SUPPORT. What each shared operation of the commands answers, said once: the provers cite these and do not unfold the operation.
-/

namespace Sys2Proof.Machine

/-- A completing command answers a next state with RC = OK. -/
theorem complete_eq (s : State) : complete s = .next (s.setStatus (statusWithRc s.status .ok)) := rfl

/-- A raise answers a next state in which only STATUS.RC may differ (60_exceptions.md R206). -/
theorem raiseResult_eq (c : ResultCode) (s : State) :
    raiseResult c s = .next (s.setStatus (statusWithRc s.status c)) := rfl

/-- The CRC of a concatenation continues from the CRC of its first part (41_crc.md R141 law 1). -/
theorem crc24q_append (c : BitVec 24) (S T : BitString) : crc24q c (S ++ T) = crc24q (crc24q c S) T := by
  simp [crc24q]

@[simp] theorem crc24q_nil (c : BitVec 24) : crc24q c [] = c := rfl

theorem crc24q_cons (c : BitVec 24) (b : Bool) (S : BitString) : crc24q c (b :: S) = crc24q (crcBit c b) S := rfl

/-- All that `append` does (40_bitfield.md R100). -/
theorem appendTx_eq (S : BitString) (s : State) :
    appendTx S s =
      { s with
        txb := s.txb ++ S.take (8184 - s.txlen.toNat)
        txlen := s.txlen + BitVec.ofNat 14 (S.take (8184 - s.txlen.toNat)).length
        status := if 8184 - s.txlen.toNat < S.length then s.status ||| 0x400#32 else s.status } := by
  simp only [appendTx, warnIf, Config.txCap]
  by_cases h : 8184 - s.txlen.toNat < S.length <;> simp [h] <;> rfl

/-- All that a PUT command does with its field (40_bitfield.md R101 to R104). -/
theorem putField_eq (f : Field) (s : State) :
    putField f s = .next
      { s with
        txb := s.txb ++ f.bits.take (8184 - s.txlen.toNat)
        txlen := s.txlen + BitVec.ofNat 14 (f.bits.take (8184 - s.txlen.toNat)).length
        status := statusWithRc
          (if 8184 - s.txlen.toNat < f.bits.length then (if f.clamped then s.status ||| 0x200#32 else s.status) ||| 0x400#32
            else if f.clamped then s.status ||| 0x200#32 else s.status) .ok } := by
  rw [putField, appendTx_eq, complete_eq]
  cases f.clamped <;> rfl

/-- All that a GET command does (40_bitfield.md R115): it writes DOUT, CUR and STATUS. -/
theorem getField_eq (w lim : Nat) (conv : BitString → DWord) (s : State) :
    getField w lim conv s = .next
      { s with
        dout := if lim < w ∨ 8 * s.rxlen.toNat < s.cur.toNat + w then 0#64 else conv (slice s.cur.toNat w (rxBits s))
        cur := BitVec.ofNat 14 (min (s.cur.toNat + w) 16383)
        status := statusWithRc
          (if lim < w then s.status ||| 0x100#32
            else if 8 * s.rxlen.toNat < s.cur.toNat + w then s.status ||| 0x800#32 else s.status) .ok } := by
  rw [getField, complete_eq]
  by_cases h1 : lim < w
  · simp only [h1, true_or, if_true]; rfl
  · by_cases h2 : 8 * s.rxlen.toNat < s.cur.toNat + w
    · simp only [h1, h2, or_true, if_true, if_false]; rfl
    · simp only [h1, h2, or_self, if_false]; rfl

@[simp] theorem length_frBytes (s : State) : (frBytes s).length = s.frlen.toNat := by simp [frBytes]

@[simp] theorem length_rxBytes (s : State) : (rxBytes s).length = s.rxlen.toNat := by simp [rxBytes]

@[simp] theorem length_rxBits (s : State) : (rxBits s).length = 8 * s.rxlen.toNat := by simp [rxBits]

end Sys2Proof.Machine
end

