-- ==== Sys2Proof/Laws/PerInstr.lean ====
section
/-!
SUPPORT. The per-instruction family RowMatch: the word of every command lies in its own row of the opcode map (30_encoding.md R79).
-/

namespace Sys2Proof.Laws.RowMatch

/-- The place of a command's row in the opcode map. -/
def rowIndex : Instr → Nat
  | .nop => 0
  | .txclr => 1
  | .rxclr => 2
  | .dclr => 3
  | .crcclr => 4
  | .put _ => 5
  | .putsm _ => 6
  | .putss _ => 7
  | .putsu _ => 8
  | .pack => 9
  | .getu _ => 10
  | .gets _ => 11
  | .getsm _ => 12
  | .getd _ => 13
  | .seek _ => 14
  | .rxput => 15
  | .loop => 16
  | .frrd _ => 17
  | .crcb _ => 18
  | .crctx => 19
  | .verify => 20
  | .build => 21
  | .parse _ _ => 22

/-- The word of `i` has the OP of its row and equals the row's match under the row's mask (30_encoding.md R79). -/
def Statement (i : Instr) : Prop :=
  ∃ r, opRows[rowIndex i]? = some r ∧ opOf (encode i) = r.op ∧ encode i &&& r.mask = r.fixed

theorem nop : Statement .nop :=
  ⟨_, rfl, opOf_formatN _, formatN_mask 0x00#6⟩

theorem txclr : Statement .txclr :=
  ⟨_, rfl, opOf_formatN _, formatN_mask 0x01#6⟩

theorem rxclr : Statement .rxclr :=
  ⟨_, rfl, opOf_formatN _, formatN_mask 0x02#6⟩

theorem dclr : Statement .dclr :=
  ⟨_, rfl, opOf_formatN _, formatN_mask 0x03#6⟩

theorem crcclr : Statement .crcclr :=
  ⟨_, rfl, opOf_formatN _, formatN_mask 0x04#6⟩

theorem put (w : Nat) : Statement (.put w) :=
  ⟨_, rfl, opOf_formatW _ _, formatW_mask 0x08#6 _⟩

theorem putsm (w : Nat) : Statement (.putsm w) :=
  ⟨_, rfl, opOf_formatW _ _, formatW_mask 0x09#6 _⟩

theorem putss (w : Nat) : Statement (.putss w) :=
  ⟨_, rfl, opOf_formatW _ _, formatW_mask 0x0A#6 _⟩

theorem putsu (w : Nat) : Statement (.putsu w) :=
  ⟨_, rfl, opOf_formatW _ _, formatW_mask 0x0B#6 _⟩

theorem pack : Statement .pack :=
  ⟨_, rfl, opOf_formatN _, formatN_mask 0x0C#6⟩

theorem getu (w : Nat) : Statement (.getu w) :=
  ⟨_, rfl, opOf_formatW _ _, formatW_mask 0x10#6 _⟩

theorem gets (w : Nat) : Statement (.gets w) :=
  ⟨_, rfl, opOf_formatW _ _, formatW_mask 0x11#6 _⟩

theorem getsm (w : Nat) : Statement (.getsm w) :=
  ⟨_, rfl, opOf_formatW _ _, formatW_mask 0x12#6 _⟩

theorem getd (w : Nat) : Statement (.getd w) :=
  ⟨_, rfl, opOf_formatW _ _, formatW_mask 0x13#6 _⟩

theorem seek (pos : BitVec 14) : Statement (.seek pos) :=
  ⟨_, rfl, opOf_formatS _ _, formatS_mask 0x14#6 _⟩

theorem rxput : Statement .rxput :=
  ⟨_, rfl, opOf_formatN _, formatN_mask 0x15#6⟩

theorem loop : Statement .loop :=
  ⟨_, rfl, opOf_formatN _, formatN_mask 0x16#6⟩

theorem frrd (idx : BitVec 11) : Statement (.frrd idx) :=
  ⟨_, rfl, opOf_formatF _ _, formatF_mask 0x17#6 _⟩

theorem crcb (w : Nat) : Statement (.crcb w) :=
  ⟨_, rfl, opOf_formatW _ _, formatW_mask 0x18#6 _⟩

theorem crctx : Statement .crctx :=
  ⟨_, rfl, opOf_formatN _, formatN_mask 0x19#6⟩

theorem verify : Statement .verify :=
  ⟨_, rfl, opOf_formatN _, formatN_mask 0x1A#6⟩

theorem build : Statement .build :=
  ⟨_, rfl, opOf_formatN _, formatN_mask 0x20#6⟩

theorem parse (elen : BitVec 10) (emsg : BitVec 12) : Statement (.parse elen emsg) :=
  ⟨_, rfl, opOf_formatP _ _ _, formatP_mask 0x21#6 _ _⟩

end Sys2Proof.Laws.RowMatch
end

