-- ==== Sys2Proof/Laws/Pseudo.lean ====
section
/-!
SUPPORT. What a command line stands for: one host write where the command has a word, nothing where it has none (30_encoding.md R83, R84).
-/

namespace Sys2Proof.Machine

/-- A command that has a word stands for the write of it to CMD. -/
theorem commandLine_of_wellFormed (i : Instr) (h : i.wellFormed = true) : commandLine i = some (commandWrite (encode i)) := by
  simp [commandLine, assemble, h]

/-- A command with an operand outside its field's range stands for nothing. -/
theorem commandLine_of_not_wellFormed (i : Instr) (h : i.wellFormed = false) : commandLine i = none := by
  simp [commandLine, assemble, h]

/-- A DIN write and a command that has a word. -/
theorem dinThenCommand_of_wellFormed (v : DWord) (i : Instr) (h : i.wellFormed = true) :
    dinThenCommand v i = some [dinWrite v, commandWrite (encode i)] := by
  rw [dinThenCommand, commandLine_of_wellFormed i h]
  rfl

/-- A DIN write and a command that has none: no host action at all. -/
theorem dinThenCommand_of_not_wellFormed (v : DWord) (i : Instr) (h : i.wellFormed = false) : dinThenCommand v i = none := by
  rw [dinThenCommand, commandLine_of_not_wellFormed i h]
  rfl

/-- The host writes of an RXBYTES list. -/
theorem rxLoad_eq (l : List DWord) : rxLoad l = some (l.flatMap (fun b => [dinWrite b, commandWrite (encode .rxput)])) := by
  induction l with
  | nil => rfl
  | cons b l ih =>
    rw [rxLoad, dinThenCommand_of_wellFormed b .rxput rfl, ih]
    rfl

end Sys2Proof.Machine
end

