-- ==== Sys2Proof/Laws/Step.lean ====
section
/-!
SUPPORT. What the host port and one step of the machine answer, by the action and by the decoded word; and the bit view of RXB.
-/

namespace Sys2Proof.Machine

/-- A word that decodes to a command runs it (30_encoding.md R80). -/
theorem runCommand_command (v : Word) (i : Instr) (s : State) (h : decode v = .command i) : runCommand v s = exec i s := by
  simp only [runCommand, h]

/-- A rejected word raises ILLEGAL (43_control.md R182). -/
theorem runCommand_illegal (v : Word) (r : Reject) (s : State) (h : decode v = .illegal r) :
    runCommand v s = .next (s.setStatus (statusWithRc s.status .illegal)) := by
  simp only [runCommand, h]
  rfl

/-- The one offset of CMD (10_state.md R35). -/
theorem portRegister_eq_cmd (offset : Nat) : portRegister offset = some .cmd ↔ offset = 0x00 := by
  unfold portRegister
  split <;> simp_all

/-- The one offset of DIN (10_state.md R35). -/
theorem portRegister_eq_din (offset : Nat) : portRegister offset = some .din ↔ offset = 0x08 := by
  unfold portRegister
  split <;> simp_all

/-- A step with an action pending performs it, past it in the list. -/
theorem step_of_action (s : State) (a : HostAction) (h : s.script[s.pc]? = some a) : step s = perform a s.advance := by
  simp only [step, performNext, h]

/-- A step with no action pending is idle (log 7). -/
theorem step_of_none (s : State) (h : s.script[s.pc]? = none) : step s = .next s := by
  simp only [step, performNext, h]

/-- RXBITS position by position (20_memory.md R48). -/
theorem rxBits_eq_map (s : State) : rxBits s = (List.range (8 * s.rxlen.toNat)).map (rxBit s) := by
  refine List.ext_getElem (by simp) (fun i h1 h2 => ?_)
  simp only [rxBits, rxBytes, getElem_bytesToBits, Memory.getElem_readBytes, Nat.zero_add, List.getElem_map, List.getElem_range, rxBit]

end Sys2Proof.Machine
end

