-- ==== Sys2Proof/Tests/Slice0.lean ====
section
/-!
SUPPORT. Tests on fixed values: each expected result is a row of 95_test_vectors.md or a worked example of the rule named beside it.
The last part shows, for every statement with hypotheses, states and operands that meet them.
-/

namespace Sys2Proof.Tests

-- One test at a time: in parallel they hold one stack each.
set_option Elab.async false

open Sys2Proof Sys2Proof.Machine

/-! ### WellFormed: a width outside 1 to 64 is refused (30_encoding.md R74, R83) -/

theorem test_put_width : (Instr.put 0).wellFormed = false ∧ (Instr.put 65).wellFormed = false := by decide
theorem test_putsm_width : (Instr.putsm 0).wellFormed = false ∧ (Instr.putsm 65).wellFormed = false := by decide
theorem test_putss_width : (Instr.putss 0).wellFormed = false ∧ (Instr.putss 65).wellFormed = false := by decide
theorem test_putsu_width : (Instr.putsu 0).wellFormed = false ∧ (Instr.putsu 65).wellFormed = false := by decide
theorem test_getu_width : (Instr.getu 0).wellFormed = false ∧ (Instr.getu 65).wellFormed = false := by decide
theorem test_gets_width : (Instr.gets 0).wellFormed = false ∧ (Instr.gets 65).wellFormed = false := by decide
theorem test_getsm_width : (Instr.getsm 0).wellFormed = false ∧ (Instr.getsm 65).wellFormed = false := by decide
theorem test_getd_width : (Instr.getd 0).wellFormed = false ∧ (Instr.getd 65).wellFormed = false := by decide
theorem test_crcb_width : (Instr.crcb 0).wellFormed = false ∧ (Instr.crcb 65).wellFormed = false := by decide
theorem test_no_word_for_width_0 : assemble (.put 0) = none ∧ assemble (.put 12) = some 0x20B00000#32 := by decide

/-! ### Decoding: words written out from the formats of R72 and the OPs of R79, OP [31:26] first -/

theorem test_decode_nop : decode 0b000000_00000000000000000000000000#32 = .command .nop := by decide
theorem test_decode_txclr : decode 0b000001_00000000000000000000000000#32 = .command .txclr := by decide
theorem test_decode_rxclr : decode 0b000010_00000000000000000000000000#32 = .command .rxclr := by decide
theorem test_decode_dclr : decode 0b000011_00000000000000000000000000#32 = .command .dclr := by decide
theorem test_decode_crcclr : decode 0b000100_00000000000000000000000000#32 = .command .crcclr := by decide
theorem test_decode_put : decode 0b001000_001011_00000000000000000000#32 = .command (.put 12) := by decide
theorem test_decode_putsm : decode 0b001001_000011_00000000000000000000#32 = .command (.putsm 4) := by decide
theorem test_decode_putss : decode 0b001010_001110_00000000000000000000#32 = .command (.putss 15) := by decide
theorem test_decode_putsu : decode 0b001011_000111_00000000000000000000#32 = .command (.putsu 8) := by decide
theorem test_decode_pack : decode 0b001100_00000000000000000000000000#32 = .command .pack := by decide
theorem test_decode_getu : decode 0b010000_011111_00000000000000000000#32 = .command (.getu 32) := by decide
theorem test_decode_gets : decode 0b010001_000000_00000000000000000000#32 = .command (.gets 1) := by decide
theorem test_decode_getsm : decode 0b010010_001111_00000000000000000000#32 = .command (.getsm 16) := by decide
theorem test_decode_getd : decode 0b010011_100101_00000000000000000000#32 = .command (.getd 38) := by decide
theorem test_decode_seek : decode 0b010100_000000000000_11111111111111#32 = .command (.seek 16383#14) := by decide
theorem test_decode_rxput : decode 0b010101_00000000000000000000000000#32 = .command .rxput := by decide
theorem test_decode_loop : decode 0b010110_00000000000000000000000000#32 = .command .loop := by decide
theorem test_decode_frrd : decode 0b010111_000000000000000_00000011000#32 = .command (.frrd 24#11) := by decide
theorem test_decode_crcb : decode 0b011000_111111_00000000000000000000#32 = .command (.crcb 64) := by decide
theorem test_decode_crctx : decode 0b011001_00000000000000000000000000#32 = .command .crctx := by decide
theorem test_decode_verify : decode 0b011010_00000000000000000000000000#32 = .command .verify := by decide
theorem test_decode_build : decode 0b100000_00000000000000000000000000#32 = .command .build := by decide
theorem test_decode_parse :
    decode 0b100001_0000010011_001111101101_0000#32 = .command (.parse 19#10 1005#12) := by decide

/-- The rejected words of 43_control.md R182 and 95_test_vectors.md 2.5, with the reason. -/
theorem test_decode_rejects :
    decode 0x14000000#32 = .illegal (.unassignedOpcode 0x05#6) ∧ decode 0xFC000000#32 = .illegal (.unassignedOpcode 0x3F#6) ∧
    decode 0x20B00001#32 = .illegal (.reservedBit 0x08#6) ∧ decode 0x00000001#32 = .illegal (.reservedBit 0x00#6) := by decide

theorem test_table_word : decodeTableWord 32 0x84133ED0 = some (.parse 19#10 1005#12) ∧ decodeTableWord 32 0x14000000 = none := by
  decide

/-- The lines of 30_encoding.md R83. -/
theorem test_asm_text : (Instr.parse 19#10 1005#12).asmText = "PARSE 19, 1005" ∧ Instr.build.asmText = "BUILD" := by
  decide

/-! ### One command each, from 95_test_vectors.md part 2 -/

/-- The state a command leaves (every command leaves one, 60_exceptions.md R217). -/
def after (i : Instr) (s : State) : State :=
  match exec i s with
  | .next t => t
  | _ => s

/-- Reset with DIN written. -/
def withDin (v : Int) : State := { State.reset with din := BitVec.ofInt 64 v }

/-- Reset with bytes loaded by RXPUT. -/
def withRx (bs : List Byte) : State :=
  { State.reset with rxb := Memory.writeBytes [] 0 bs, rxlen := BitVec.ofNat 11 bs.length }

/-- Reset with a payload of n one bits. -/
def withOnes (n : Nat) : State := { State.reset with txb := List.replicate n true, txlen := BitVec.ofNat 14 n }

/-- Reset with the low w bits of v as payload. -/
def withTx (w v : Nat) : State := { State.reset with txb := bitsOf w v, txlen := BitVec.ofNat 14 w }

/-- What a PUT left: the bits and STATUS. -/
def put (i : Instr) (v : Int) : BitString × BitVec 32 := ((after i (withDin v)).txb, (after i (withDin v)).status)

/-- What a GET at a cursor left: DOUT as an integer, CUR and STATUS. -/
def get (i : Instr) (c : Nat) (bs : List Byte) : Int × Nat × BitVec 32 :=
  let t := after i { withRx bs with cur := BitVec.ofNat 14 c }
  (t.dout.toInt, t.cur.toNat, t.status)

/-- The empty frame of 95_test_vectors.md 2.3. -/
def emptyFrame : List Byte := [0xD3#8, 0x00#8, 0x00#8, 0x47#8, 0xEA#8, 0x4B#8]

/-- The frame of 8 one bits of 95_test_vectors.md 2.4. -/
def onesFrame : List Byte := [0xD3#8, 0x00#8, 0x01#8, 0xFF#8, 0xD7#8, 0x9D#8, 0xB5#8]

/-- The MT1005 frame of 95_test_vectors.md V1. -/
def frameV1 : List Byte :=
  [0xD3#8, 0x00#8, 0x13#8, 0x3E#8, 0xD7#8, 0xD3#8, 0x02#8, 0x02#8, 0x98#8, 0x0E#8, 0xDE#8, 0xEF#8, 0x34#8] ++
  [0xB4#8, 0xBD#8, 0x62#8, 0xAC#8, 0x09#8, 0x41#8, 0x98#8, 0x6F#8, 0x33#8, 0x36#8, 0x0B#8, 0x98#8]

theorem test_put_masks : put (.put 6) 200 = (bitsOf 6 0b001000, 0#32) ∧
    put (.put 15) (-16384) = (bitsOf 15 0b100000000000000, 0#32) := by decide
theorem test_put_truncates :
    let s := after (.put 64) { withOnes 8128 with din := BitVec.ofInt 64 (-1) }
    s.txlen = 8184#14 ∧ s.status = 0x400#32 := by decide
theorem test_putsm_saturates : put (.putsm 4) (-9) = (bitsOf 4 0b1111, 0x200#32) ∧
    put (.putsm 4) (-5) = (bitsOf 4 0b1101, 0#32) := by decide
theorem test_putsm_most_negative : put (.putsm 64) (-9223372036854775808) = (List.replicate 64 true, 0x200#32) := by
  decide
theorem test_putss_clamps : put (.putss 4) (-8) = (bitsOf 4 0b1001, 0x200#32) ∧
    put (.putss 4) 8 = (bitsOf 4 0b0111, 0x200#32) := by decide
theorem test_putss_width_1 : put (.putss 1) 5 = ([false], 0x200#32) ∧ put (.putss 1) 0 = ([false], 0#32) := by decide
theorem test_putsu_clamps : put (.putsu 8) 256 = (bitsOf 8 0xFF, 0x200#32) ∧
    put (.putsu 8) (-3) = (bitsOf 8 0, 0x200#32) := by decide
theorem test_putsu_width_64 : put (.putsu 64) (-3) = (zeros 64, 0x200#32) ∧
    put (.putsu 64) 9223372036854775807 = (bitsOf 64 0x7FFFFFFFFFFFFFFF, 0#32) := by decide
theorem test_txclr : (after .txclr (withTx 12 0xABC)).txb = [] ∧ (after .txclr (withTx 12 0xABC)).txlen = 0#14 := by
  decide
theorem test_pack_left_pads : frBytes (after .pack (withTx 12 0xABC)) = [0x0A#8, 0xBC#8] := by decide
theorem test_getu : get (.getu 4) 0 [0xB5#8, 0x0F#8] = (11, 4, 0#32) ∧
    get (.getu 8) 12 [0xB5#8, 0x0F#8] = (0, 20, 0x800#32) := by decide
theorem test_getu_width_first : get (.getu 40) 10 [0xB5#8, 0x0F#8] = (0, 50, 0x100#32) ∧
    get (.getu 8) 16383 [0xB5#8, 0x0F#8] = (0, 16383, 0x800#32) := by decide
theorem test_gets : get (.gets 16) 0 [0xB5#8, 0x0F#8] = (-19185, 16, 0#32) ∧
    get (.gets 33) 0 (List.replicate 8 0xFF#8) = (0, 33, 0x100#32) := by decide
theorem test_getsm : get (.getsm 16) 0 [0xB5#8, 0x0F#8] = (-13583, 16, 0#32) ∧
    get (.getsm 32) 0 [0x80#8, 0x00#8, 0x00#8, 0x00#8] = (0, 32, 0#32) := by decide
theorem test_getd : get (.getd 38) 58 frameV1 = (11141045999, 96, 0#32) ∧
    get (.getd 64) 0 (0x80#8 :: List.replicate 7 0#8) = (-9223372036854775808, 64, 0#32) := by decide +kernel
theorem test_seek : (after (.seek 36#14) State.reset).cur = 36#14 := by decide
theorem test_rxput : rxBytes (after .rxput (withDin 0x1D3)) = [0xD3#8] := by decide
theorem test_rxput_full :
    let t := after .rxput { withDin 9 with rxlen := 1029#11 }
    t.rxlen = 1029#11 ∧ t.rxb = [] ∧ t.status = 0x400#32 := by decide
theorem test_rxclr :
    let t := after .rxclr { withRx frameV1 with cur := 176#14 }
    t.rxlen = 0#11 ∧ t.cur = 0#14 := by decide
theorem test_loop : rxBytes (after .loop (after .build State.reset)) = emptyFrame := by decide +kernel
theorem test_frrd : (after (.frrd 5#11) (after .build State.reset)).dout = 0x4B#64 := by decide +kernel
theorem test_frrd_past_end :
    let t := after (.frrd 6#11) { after .build State.reset with dout := 7#64 }
    t.dout = 0#64 ∧ t.status = 0x800#32 := by decide
theorem test_crcclr : (after .crcclr { State.reset with crc := 0x360B98#24 }).crc = 0#24 := by decide
theorem test_crcb : (after (.crcb 8) (withDin 0xD3)).crc = 0xE33309#24 ∧
    (after (.crcb 64) (withDin (-1))).crc = 0x2911AD#24 := by decide +kernel
theorem test_crctx : (after .crctx (withTx 12 0xABC)).crc = 0x3D423A#24 := by decide +kernel
theorem test_crc_check_value :
    crc24q 0#24 (bytesToBits [0x31#8, 0x32#8, 0x33#8, 0x34#8, 0x35#8, 0x36#8, 0x37#8, 0x38#8, 0x39#8]) = 0xCDE703#24 := by
  decide +kernel
theorem test_verify : (after .verify (withRx emptyFrame)).status = 0#32 ∧ (after .verify (withRx [0#8, 0#8, 0#8])).status = 0#32 := by
  decide +kernel
theorem test_verify_fails : (after .verify (withRx [0xD3#8, 0#8, 0#8, 0x47#8, 0xEA#8, 0x4A#8])).status = 1#32 ∧
    (after .verify (withRx [0x01#8, 0x02#8])).status = 4#32 := by decide +kernel
theorem test_build_right_pads :
    frBytes (after .build (withTx 12 1005)) = [0xD3#8, 0x00#8, 0x02#8, 0x3E#8, 0xD0#8, 0xA4#8, 0xE0#8, 0x00#8] := by
  decide +kernel
theorem test_build_v1 : frBytes (after .build (withTx 152 (valOf (slice 24 152 (bytesToBits frameV1))))) = frameV1 := by
  decide +kernel

/-- RC, MSG, PLEN and CUR after a PARSE from MSG = 77, PLEN = 5, CUR = 7 (95_test_vectors.md 2.4). -/
def parsed (elen emsg : Nat) (bs : List Byte) : Nat × Nat × Nat × Nat :=
  let t := after (.parse (BitVec.ofNat 10 elen) (BitVec.ofNat 12 emsg)) { withRx bs with msg := 77#12, plen := 5#10, cur := 7#14 }
  (t.status.toNat, t.msg.toNat, t.plen.toNat, t.cur.toNat)

theorem test_parse : parsed 19 1005 frameV1 = (0, 1005, 19, 36) ∧ parsed 0 1150 emptyFrame = (0, 1150, 0, 36) := by decide +kernel
theorem test_parse_fails : parsed 20 1005 frameV1 = (2, 77, 5, 7) ∧ parsed 19 1006 frameV1 = (3, 77, 5, 7) ∧
    parsed 19 1005 (0xD2#8 :: frameV1.tail) = (1, 77, 5, 7) ∧ parsed 19 1005 (frameV1.take 5) = (4, 77, 5, 7) := by decide +kernel
theorem test_nop : (after .nop { State.reset with status := 0x801#32 }).status = 0x800#32 := by decide
theorem test_dclr : (after .dclr { State.reset with status := 0x904#32 }).status = 0#32 := by decide

/-! ### The step -/

/-- The state one step leaves. -/
def stepped (s : State) : State :=
  match step s with
  | .next t => t
  | _ => s

theorem test_fetch_runs : (stepped (State.reset.withFetchWord 32 0x50000024)).cur = 36#14 := by decide
theorem test_illegal_step :
    stepped (State.reset.withFetchWord 32 0x20B00001) =
      { State.reset.withFetchWord 32 0x20B00001 with status := 5#32, pc := 1 } := by decide
/-- "After `PUTV 12, 1005`, DIN = 1005" (30_encoding.md R85). -/
theorem test_putv : (expandPseudo (.putv 12 1005#64)).map (fun l => (stepped { State.reset with script := l }).din) = some 1005#64 := by
  decide
theorem test_putv_no_word : expandPseudo (.putv 0 5#64) = none ∧ expandPseudo (.putv 65 5#64) = none := by decide
theorem test_read_id : (stepped { State.reset with script := [.read 64 0x58] }).replies = [0x0000000052464531#64] := by
  decide

/-! ### The hypotheses of the statements are met -/

/-- Whether a command answers a next state with the property. -/
def answers (r : Result) (P : State → Prop) [DecidablePred P] : Bool :=
  match r with
  | .next t => decide (P t)
  | _ => false

theorem answers_next {r : Result} {P : State → Prop} [DecidablePred P] (h : answers r P = true) : ∃ t, r = .next t ∧ P t := by
  unfold answers at h
  split at h
  · exact ⟨_, rfl, of_decide_eq_true h⟩
  · cases h

/-- A host script at its first action. -/
def scripted (a : HostAction) : State := { State.reset with script := [a] }

/-- A state with every length and the cursor at its greatest value, RC = 5 and all flags set. -/
def greatest : State :=
  { withOnes 8184 with
    frlen := 1029#11, rxlen := 1029#11, cur := 16383#14, status := 0xF05#32, frb := [(1028, 0xFF#8)], rxb := [(1028, 0x01#8)] }

theorem test_witness_inv_greatest : Inv greatest := by constructor <;> decide +kernel
theorem test_witness_inv_ones (n : Nat) (h : n ≤ 8184) : Inv (withOnes n) := by
  have e : (BitVec.ofNat 14 n).toNat = n := by rw [BitVec.toNat_ofNat]; omega
  refine ⟨by simp [withOnes, e], by simpa [withOnes, e] using h, ?_, ?_, ?_, ?_, ?_, ?_, ?_, ?_, ?_, ?_⟩ <;>
    simp [withOnes, State.reset, Memory.wf]

/-- CommandWordsKeepTheLimits, at the greatest values. -/
theorem test_witness_limits : greatest.txlen.toNat ≤ 8184 ∧ greatest.frlen.toNat ≤ 1029 ∧ greatest.rxlen.toNat ≤ 1029 ∧
    greatest.cur.toNat ≤ 16383 ∧ greatest.status.extractLsb' 4 4 = 0#4 ∧ greatest.status.extractLsb' 12 20 = 0#20 ∧
    (greatest.status.extractLsb' 0 4).toNat ≤ 5 := by decide

/-- StepKeepsTheInvariant: a step that runs BUILD from the greatest state. -/
theorem test_witness_step_inv : Inv { greatest with script := [commandWrite 0x80000000#32] } ∧
    ∃ t, step { greatest with script := [commandWrite 0x80000000#32] } = .next t :=
  ⟨by constructor <;> decide +kernel, _, rfl⟩

/-- HiddenBytesAreUnobservable: two states that differ beyond FRLEN and RXLEN, and a step. -/
theorem test_witness_hidden :
    let s := { State.reset with frb := [(3, 1#8)], rxb := [(0, 2#8)], script := [commandWrite 0x54000000#32] }
    let t := { State.reset with script := [commandWrite 0x54000000#32] }
    s ≠ t ∧ Inv s ∧ Inv t ∧ SameArchitectural s t ∧ ∃ s', step s = .next s' :=
  ⟨by decide, by constructor <;> decide, by constructor <;> decide,
    ⟨rfl, rfl, rfl, rfl, rfl, rfl, rfl, rfl, rfl, rfl, rfl, rfl, rfl, rfl, by simp [State.reset], by simp [State.reset]⟩, _, rfl⟩

/-- DecodeInvertsEncode and EncodeInvertsDecode: the least and greatest widths, and a word that decodes. -/
theorem test_witness_encode : (Instr.put 1).wellFormed = true ∧ (Instr.put 64).wellFormed = true ∧
    decode 0x23F00000#32 = .command (.put 64) := by decide

/-- IllegalWordsOnlySetRcIllegal: a rejected word of each format, at the top and bottom reserved bits, and both unassigned edges. -/
theorem test_witness_illegal : ∀ v ∈ [0x02000000#32, 0x00000001#32, 0x20080000#32, 0x20000001#32, 0x52000000#32, 0x50004000#32,
    0x5E000000#32, 0x5C000800#32, 0x84000008#32, 0x84000001#32, 0x14000000#32, 0x88000000#32, 0xFC000000#32],
    ∃ why, decode v = .illegal why := by
  intro v hv
  fin_cases hv <;> exact ⟨_, rfl⟩

/-- StepRunsTheDeliveredCommand, for a command with the upper half of the value ignored, and for a rejected word. -/
theorem test_witness_step_runs : (scripted (.write 64 0x00 0xFFFFFFFF80000000#64)).script[0]? = some (.write 64 0x00 0xFFFFFFFF80000000#64) ∧
    decode ((0xFFFFFFFF80000000#64).setWidth 32) = .command .build ∧
    (scripted (.write 64 0x00 0x14000000#64)).script[0]? = some (.write 64 0x00 0x14000000#64) ∧
    decode ((0x14000000#64).setWidth 32) = .illegal (.unassignedOpcode 0x05#6) := by decide

/-- HostReadReturnsTheRegister, HostWriteOutsideCmdSetsOnlyDin and OtherAccessWidthsAreRefused: an action for each clause. -/
theorem test_witness_port :
    (scripted (.read 64 0x58)).script[0]? = some (.read 64 0x58) ∧ (scripted (.read 64 0x60)).script[0]? = some (.read 64 0x60) ∧
    (scripted (.write 64 0x08 1#64)).script[0]? = some (.write 64 0x08 1#64) ∧
    (scripted (.write 63 0x00 1#64)).script[0]? = some (.write 63 0x00 1#64) ∧
    (scripted (.read 65 0x10)).script[0]? = some (.read 65 0x10) ∧
    (scripted (.write 64 0x07 1#64)).script[0]? = some (.write 64 0x07 1#64) ∧
    (scripted (.read 64 0x09)).script[0]? = some (.read 64 0x09) := by decide

/-- PlatformResetRestoresEveryRegister and IdleStepChangesNothing. -/
theorem test_witness_reset_and_idle : (scripted .reset).script[0]? = some .reset ∧ State.reset.pc = State.reset.script.length := by decide

/-- RestartClearsTheFourParts: a host list that is RESTART's expansion. -/
theorem test_witness_restart : ∃ l, expandPseudo .restart = some l ∧
    ∀ k, k < 4 → ({ greatest with script := l }).script[0 + k]? = l[k]? :=
  ⟨_, rfl, fun k _ => by rw [Nat.zero_add]⟩

/-- PseudoInstructionsExpandByTheTable: both ends of the widths that have a word, and both that have none. -/
theorem test_witness_pseudo_widths : (1 ≤ 1 ∧ 1 ≤ 64) ∧ (1 ≤ 64 ∧ 64 ≤ 64) ∧ (0 = 0 ∨ 64 < 0) ∧ (65 = 0 ∨ 64 < 65) := by decide

/-- ResultCodesComeOnlyFromTheirCommands and FailedCommandChangesOnlyRc: the words and states that leave each code. -/
theorem test_witness_result_codes :
    (∃ t, runCommand 0x68000000#32 State.reset = .next t ∧ t.status &&& 0xF#32 = 4#32) ∧
    (∃ t, runCommand 0x68000000#32 (withRx [0#8, 0#8, 1#8]) = .next t ∧ t.status &&& 0xF#32 = 1#32) ∧
    (∃ t, runCommand 0x84010000#32 (withRx (List.replicate 6 0#8)) = .next t ∧ t.status &&& 0xF#32 = 2#32) ∧
    (∃ t, runCommand 0x84000010#32 (withRx (List.replicate 6 0#8)) = .next t ∧ t.status &&& 0xF#32 = 3#32) ∧
    (∃ t, runCommand 0x14000000#32 State.reset = .next t ∧ t.status &&& 0xF#32 = 5#32) := by
  refine ⟨answers_next ?_, answers_next ?_, answers_next ?_, answers_next ?_, answers_next ?_⟩ <;> decide +kernel

/-- OnlyDclrOrResetClearsAWarning: DCLR and the platform's reset clear the first and the last flag. -/
theorem test_witness_clear :
    (∀ k ∈ [8, 11], ∃ t, step { greatest with script := [commandWrite 0x0C000000#32] } = .next t ∧
      greatest.status.getLsbD k = true ∧ t.status.getLsbD k = false) ∧
    (∃ t, step { greatest with script := [.reset] } = .next t ∧ t.status.getLsbD 8 = false) ∧
    warningSet greatest.status .wwidth = true := by
  refine ⟨fun k hk => ⟨_, rfl, ?_⟩, ⟨_, rfl, rfl⟩, by decide⟩
  fin_cases hk <;> decide

/-- WarningsAreSetOnlyByTheirCommands: a command that sets each flag. -/
theorem test_witness_warnings :
    (∃ t, exec (.getu 33) State.reset = .next t ∧ t.status.getLsbD 8 = true) ∧
    (∃ t, exec (.putsu 1) (withDin 2) = .next t ∧ t.status.getLsbD 9 = true) ∧
    (∃ t, exec (.put 1) (withOnes 8184) = .next t ∧ t.status.getLsbD 10 = true) ∧
    (∃ t, exec (.frrd 0#11) State.reset = .next t ∧ t.status.getLsbD 11 = true) ∧ State.reset.status = 0#32 := by
  refine ⟨answers_next ?_, answers_next ?_, answers_next ?_, answers_next ?_, rfl⟩ <;> decide

/-- RegistersAreWrittenOnlyByTheirCommands: commands that change each register. -/
theorem test_witness_writes :
    (∃ t, exec .build (withOnes 1) = .next t ∧ t.frb ≠ (withOnes 1).frb ∧ t.frlen ≠ 0#11 ∧ t.crc ≠ 0#24) ∧
    (∃ t, exec (.getu 4) (withRx [0xB5#8]) = .next t ∧ t.dout ≠ 0#64 ∧ t.cur ≠ 0#14) ∧
    (∃ t, exec .rxput (withDin 1) = .next t ∧ t.rxb ≠ [] ∧ t.rxlen ≠ 0#11) ∧
    (∃ t, exec (.put 1) (withDin 1) = .next t ∧ t.txb ≠ [] ∧ t.txlen ≠ 0#14) ∧
    (∃ t, exec (.parse 0#10 1150#12) (withRx emptyFrame) = .next t ∧ t.msg ≠ 0#12 ∧ t.cur = 36#14) := by
  refine ⟨answers_next ?_, answers_next ?_, answers_next ?_, answers_next ?_, answers_next ?_⟩ <;> decide +kernel

/-- The statements over a width (the PUT and GET commands, CRCB): its least and greatest value. -/
theorem test_witness_widths : (1 ≤ 1 ∧ 1 ≤ 64) ∧ (1 ≤ 64 ∧ 64 ≤ 64) := by decide

/-- RxputAppendsOneByte: the last byte that fits and the first that does not. -/
theorem test_witness_rxput : ({ State.reset with rxlen := 1028#11 }).rxb.wf ∧ ({ State.reset with rxlen := 1028#11 }).rxlen.toNat < 1029 ∧
    1029 ≤ greatest.rxlen.toNat ∧ greatest.rxb.wf := by decide

/-- The GET statements: a field that ends exactly at the end, one bit past it, and both sides of the width limit. -/
theorem test_witness_get :
    let s := { withRx [0xB5#8, 0x0F#8] with cur := 12#14 }
    8 * s.rxlen.toNat = s.cur.toNat + 4 ∧ 8 * s.rxlen.toNat < s.cur.toNat + 5 ∧ ¬ 32 < 32 ∧ 32 < 33 := by decide

/-- BuildTwiceGivesTheSameState, BuiltFrameVerifiesAndParses: payloads of 0, 11, 12 and 8184 bits. -/
theorem test_witness_build : ∀ n ∈ [0, 11, 12, 8184], Inv (withOnes n) ∧
    ∃ t u, exec .build (withOnes n) = .next t ∧ exec .loop t = .next u := by
  intro n hn
  refine ⟨test_witness_inv_ones n ?_, _, _, rfl, rfl⟩
  fin_cases hn <;> decide

/-- SingleBitFlipsAreDetected: the frame of 8 one bits unchanged, and with its first and its last bit flipped. -/
theorem test_witness_flips :
    let t := after .build (withOnes 8)
    Inv (withOnes 8) ∧ exec .build (withOnes 8) = .next t ∧
    ((withRx onesFrame).rxlen = t.frlen ∧ ∀ p, p < 8 * t.frlen.toNat → rxBit (withRx onesFrame) p = frBit t p) ∧
    (∀ p, p < 8 * t.frlen.toNat → rxBit (withRx (0x53#8 :: onesFrame.tail)) p = (frBit t p ^^ decide (p = 0))) ∧
    (∀ p, p < 8 * t.frlen.toNat → rxBit (withRx (onesFrame.take 6 ++ [0xB4#8])) p = (frBit t p ^^ decide (p = 55))) :=
  ⟨test_witness_inv_ones 8 (by decide), rfl, by decide +kernel, by decide +kernel, by decide +kernel⟩

/-- RawFieldsReadBack and ClampedFieldsReadBack: a field of w bits, more payload after it, BUILD, LOOP and SEEK; at the least and
greatest widths, and at the very end of the payload. -/
theorem test_witness_read_back :
    (∀ w ∈ [1, 32, 64], ∃ s1, exec (.put w) (withDin 5) = .next s1 ∧ s1.txb <+: (after (.put 3) s1).txb ∧ Inv (after (.put 3) s1) ∧
      ∃ t u v, exec .build (after (.put 3) s1) = .next t ∧ exec .loop t = .next u ∧ exec (.seek (24#14 + 0#14)) u = .next v) ∧
    (∃ s1, exec (.putsm 1) (withDin (-1)) = .next s1 ∧ Inv s1 ∧
      ∃ t u v, exec .build s1 = .next t ∧ exec .loop t = .next u ∧ exec (.seek (24#14 + 0#14)) u = .next v) ∧
    (∃ s1, exec (.putss 32) (withDin (-1)) = .next s1 ∧ Inv s1 ∧
      ∃ t u v, exec .build s1 = .next t ∧ exec .loop t = .next u ∧ exec (.seek (24#14 + 0#14)) u = .next v) ∧
    Inv (withDin 5) ∧ (withOnes 8152).txlen.toNat + 32 ≤ 8184 := by
  refine ⟨fun w hw => ⟨_, rfl, ?_, ?_, _, _, _, rfl, rfl, rfl⟩, ⟨_, rfl, ?_, _, _, _, rfl, rfl, rfl⟩, ⟨_, rfl, ?_, _, _, _, rfl, rfl, rfl⟩, ?_, by decide⟩
  · fin_cases hw <;> decide +kernel
  · fin_cases hw <;> constructor <;> decide +kernel
  · constructor <;> decide +kernel
  · constructor <;> decide +kernel
  · constructor <;> decide

end Sys2Proof.Tests
end

/-! ## What one command can do

`CommandEffect` is the inversion of `exec`: which registers each command writes, and under which conditions, before its result code is
written. The invariants and the frame statements below are case splits over it. -/

namespace Sys2Proof.Machine

/-- A PUT command of width w (40_bitfield.md R101 to R104). -/
abbrev IsPut (i : Instr) (w : Nat) : Prop := i = .put w ∨ i = .putsm w ∨ i = .putss w ∨ i = .putsu w

/-- A GET command of width w (40_bitfield.md R116 to R119). -/
abbrev IsGet (i : Instr) (w : Nat) : Prop := i = .getu w ∨ i = .gets w ∨ i = .getsm w ∨ i = .getd w

/-- `CommandEffect s i c u`: from `s` the command `i` leaves `u` with the result code `c` written to it. Commands that differ only in the
value they write share a constructor. -/
inductive CommandEffect (s : State) : Instr → ResultCode → State → Prop
  | nop : CommandEffect s .nop .ok s
  | dclr : CommandEffect s .dclr .ok (clearWarnings s)
  | txclr : CommandEffect s .txclr .ok (s.setTx [] 0#14)
  | crc {i : Instr} (v : BitVec 24) (hi : i = .crcclr ∨ (∃ w, i = .crcb w) ∨ i = .crctx) : CommandEffect s i .ok (s.setCrc v)
  | put {i : Instr} {w : Nat} (f : Field) (hi : IsPut i w) (hc : f.clamped = true → i ≠ .put w) :
      CommandEffect s i .ok (appendTx f.bits (warnIf f.clamped .wrange s))
  | pack : CommandEffect s .pack .ok
      (s.setFr (s.frb.writeBytes 0 (packBits s.txb)) (BitVec.ofNat 11 (ceilBytes s.txlen.toNat)))
  | build (B : List Byte) (c : BitVec 24) (hB : B.length = ceilBytes s.txlen.toNat + 6) : CommandEffect s .build .ok
      ((s.setFr (s.frb.writeBytes 0 B) (BitVec.ofNat 11 (ceilBytes s.txlen.toNat + 6))).setCrc c)
  | rxput (h : s.rxlen.toNat < 1029) : CommandEffect s .rxput .ok
      (s.setRx (s.rxb.write s.rxlen.toNat (s.din.extractLsb' 0 8)) (s.rxlen + 1#11))
  | rxputFull (h : 1029 ≤ s.rxlen.toNat) : CommandEffect s .rxput .ok (warn .wovf s)
  | rxclr : CommandEffect s .rxclr .ok ((s.setRx s.rxb 0#11).setCur 0#14)
  | loop : CommandEffect s .loop .ok ((s.setRx (s.rxb.writeBytes 0 (frBytes s)) s.frlen).setCur 0#14)
  | seek (pos : BitVec 14) : CommandEffect s (.seek pos) .ok (s.setCur pos)
  | getTooWide {i : Instr} {w : Nat} (hi : IsGet i w) (hw : 32 < w) (hd : i = .getd w → 64 < w) :
      CommandEffect s i .ok (((warn .wwidth s).setDout 0#64).setCur (advancedCur s.cur w))
  | getPastEnd {i : Instr} {w : Nat} (hi : IsGet i w) :
      CommandEffect s i .ok (((warn .weof s).setDout 0#64).setCur (advancedCur s.cur w))
  | get {i : Instr} {w : Nat} (v : DWord) (hi : IsGet i w) :
      CommandEffect s i .ok ((s.setDout v).setCur (advancedCur s.cur w))
  | frrd (idx : BitVec 11) (v : DWord) : CommandEffect s (.frrd idx) .ok (s.setDout v)
  | frrdPastEnd (idx : BitVec 11) : CommandEffect s (.frrd idx) .ok (warn .weof (s.setDout 0#64))
  | verify (c : ResultCode) (hc : c = .ok ∨ c = .short ∨ c = .checksum) : CommandEffect s .verify c s
  | parseFailed (elen : BitVec 10) (emsg : BitVec 12) (c : ResultCode) (hc : c ≠ .ok ∧ c ≠ .illegal) :
      CommandEffect s (.parse elen emsg) c s
  | parse (elen : BitVec 10) (emsg : BitVec 12) : CommandEffect s (.parse elen emsg) .ok
      ((s.setParsed (rxMessageNumber s) (rxLengthField s)).setCur 36#14)

/-- A result that is a next state reached by an effect of the command. -/
def HasEffect (i : Instr) (s : State) (r : Result) : Prop :=
  ∃ c u, r = .next (setRc c u) ∧ CommandEffect s i c u

theorem CommandEffect.hasEffect {i : Instr} {s u : State} {c : ResultCode} (e : CommandEffect s i c u) :
    HasEffect i s (.next (setRc c u)) := ⟨c, u, rfl, e⟩

theorem hasEffect_getField {i : Instr} {w lim : Nat} (conv : BitString → DWord) (s : State) (hi : IsGet i w)
    (hlim : 32 ≤ lim) (hd : i = .getd w → lim = 64) : HasEffect i s (getField w lim conv s) := by
  unfold getField
  split
  next hw => exact (CommandEffect.getTooWide hi (by omega) (fun h => hd h ▸ hw)).hasEffect
  next =>
    split
    · exact (CommandEffect.getPastEnd hi).hasEffect
    · exact (CommandEffect.get _ hi).hasEffect

theorem hasEffect_rxput (s : State) : HasEffect .rxput s (execRxput s) := by
  unfold execRxput
  split
  next h => exact (CommandEffect.rxput h).hasEffect
  next h => exact (CommandEffect.rxputFull (Nat.le_of_not_lt h)).hasEffect

theorem hasEffect_frrd (idx : BitVec 11) (s : State) : HasEffect (.frrd idx) s (execFrrd idx s) := by
  unfold execFrrd
  split
  · exact (CommandEffect.frrd idx _).hasEffect
  · exact (CommandEffect.frrdPastEnd idx).hasEffect

theorem hasEffect_verify (s : State) : HasEffect .verify s (execVerify s) := by
  unfold execVerify
  split_ifs <;> exact (CommandEffect.verify _ (by simp)).hasEffect

theorem hasEffect_parse (elen : BitVec 10) (emsg : BitVec 12) (s : State) :
    HasEffect (.parse elen emsg) s (execParse elen emsg s) := by
  unfold execParse
  split_ifs
  case neg => exact (CommandEffect.parse elen emsg).hasEffect
  all_goals exact (CommandEffect.parseFailed elen emsg _ (by simp)).hasEffect

/-- Every command answers a next state, by one of its effects (60_exceptions.md R217). -/
theorem exec_hasEffect (i : Instr) (s : State) : HasEffect i s (exec i s) := by
  cases i with
  | nop => exact CommandEffect.nop.hasEffect
  | txclr => exact CommandEffect.txclr.hasEffect
  | rxclr => exact CommandEffect.rxclr.hasEffect
  | dclr => exact CommandEffect.dclr.hasEffect
  | crcclr => exact (CommandEffect.crc _ (.inl rfl)).hasEffect
  | put w => exact (CommandEffect.put (rawField w s.din) (.inl rfl) (by simp [rawField])).hasEffect
  | putsm w => exact (CommandEffect.put (signMagnitudeField w s.din) (.inr (.inl rfl)) (by simp)).hasEffect
  | putss w => exact (CommandEffect.put (symmetricField w s.din) (.inr (.inr (.inl rfl))) (by simp)).hasEffect
  | putsu w => exact (CommandEffect.put (unsignedField w s.din) (.inr (.inr (.inr rfl))) (by simp)).hasEffect
  | pack => exact CommandEffect.pack.hasEffect
  | getu w => exact hasEffect_getField _ s (.inl rfl) (by decide) (by simp)
  | gets w => exact hasEffect_getField _ s (.inr (.inl rfl)) (by decide) (by simp)
  | getsm w => exact hasEffect_getField _ s (.inr (.inr (.inl rfl))) (by decide) (by simp)
  | getd w => exact hasEffect_getField _ s (.inr (.inr (.inr rfl))) (by decide) (by simp)
  | seek pos => exact (CommandEffect.seek pos).hasEffect
  | rxput => exact hasEffect_rxput s
  | loop => exact CommandEffect.loop.hasEffect
  | frrd idx => exact hasEffect_frrd idx s
  | crcb w => exact (CommandEffect.crc _ (.inr (.inl ⟨w, rfl⟩))).hasEffect
  | crctx => exact (CommandEffect.crc _ (.inr (.inr rfl))).hasEffect
  | verify => exact hasEffect_verify s
  | build => exact (CommandEffect.build _ _ (by simp [crcBytes])).hasEffect
  | parse elen emsg => exact hasEffect_parse elen emsg s

/-- The inversion of `exec`: a next state is one of the command's effects with its result code written. -/
theorem effect_of_exec {i : Instr} {s t : State} (h : exec i s = .next t) :
    ∃ c u, t = setRc c u ∧ CommandEffect s i c u := by
  obtain ⟨c, u, hr, e⟩ := exec_hasEffect i s
  exact ⟨c, u, Host.Outcome.next.inj (h.symm.trans hr), e⟩

end Sys2Proof.Machine

/-! ## STATUS bit by bit, and the frame of `append` -/

namespace Sys2Proof.Machine

/-- The position of a warning flag in STATUS (10_state.md R23). -/
def warningBit : Warning → Nat
  | .wwidth => 8
  | .wrange => 9
  | .wovf => 10
  | .weof => 11

theorem warningMask_eq_twoPow (f : Warning) : warningMask f = BitVec.twoPow 32 (warningBit f) := by
  cases f <;> rfl

theorem warningBit_bounds (f : Warning) : 8 ≤ warningBit f ∧ warningBit f < 12 := by
  cases f <;> decide

theorem warningBit_injective : Function.Injective warningBit := by
  intro f g h
  cases f <;> cases g <;> simp_all [warningBit]

/-- A warning flag's mask is the one bit at the flag's position. -/
theorem getLsbD_warningMask (f : Warning) (k : Nat) : (warningMask f).getLsbD k = decide (warningBit f = k) := by
  obtain ⟨-, hf⟩ := warningBit_bounds f
  rw [warningMask_eq_twoPow, BitVec.getLsbD_twoPow, decide_eq_true (show warningBit f < 32 by omega), Bool.true_and]

/-- `warn` sets its flag's bit and keeps every other bit (00_scope.md R11). -/
theorem getLsbD_statusWithWarning (st : BitVec 32) (f : Warning) (k : Nat) :
    (statusWithWarning st f).getLsbD k = (st.getLsbD k || decide (warningBit f = k)) := by
  rw [statusWithWarning, BitVec.getLsbD_or, getLsbD_warningMask]

/-- A flag is set exactly when its bit of STATUS is 1 (10_state.md R23). -/
theorem warningSet_iff (st : BitVec 32) (f : Warning) : warningSet st f = true ↔ st.getLsbD (warningBit f) = true := by
  rw [warningSet, bne_iff_ne, Ne, warningMask_eq_twoPow, BitVec.and_twoPow]
  cases st.getLsbD (warningBit f) with
  | false => simp
  | true => cases f <;> decide

/-- "Setting a flag that is already set changes nothing" (10_state.md R25). -/
theorem statusWithWarning_of_set (st : BitVec 32) (f : Warning) (h : warningSet st f = true) : statusWithWarning st f = st := by
  rw [warningSet_iff] at h
  refine BitVec.eq_of_getLsbD_eq fun k _ => ?_
  rw [getLsbD_statusWithWarning]
  by_cases hk : warningBit f = k
  · simp [← hk, h]
  · simp [hk]

section AppendTx
variable (S : BitString) (s : State)
@[simp] theorem appendTx_din : (appendTx S s).din = s.din := by simp [appendTx]
@[simp] theorem appendTx_dout : (appendTx S s).dout = s.dout := by simp [appendTx]
@[simp] theorem appendTx_crc : (appendTx S s).crc = s.crc := by simp [appendTx]
@[simp] theorem appendTx_txb : (appendTx S s).txb = s.txb ++ S.take (8184 - s.txlen.toNat) := rfl
@[simp] theorem appendTx_txlen :
    (appendTx S s).txlen = s.txlen + BitVec.ofNat 14 (S.take (8184 - s.txlen.toNat)).length := rfl
@[simp] theorem appendTx_frb : (appendTx S s).frb = s.frb := by simp [appendTx]
@[simp] theorem appendTx_frlen : (appendTx S s).frlen = s.frlen := by simp [appendTx]
@[simp] theorem appendTx_rxb : (appendTx S s).rxb = s.rxb := by simp [appendTx]
@[simp] theorem appendTx_rxlen : (appendTx S s).rxlen = s.rxlen := by simp [appendTx]
@[simp] theorem appendTx_cur : (appendTx S s).cur = s.cur := by simp [appendTx]
@[simp] theorem appendTx_msg : (appendTx S s).msg = s.msg := by simp [appendTx]
@[simp] theorem appendTx_plen : (appendTx S s).plen = s.plen := by simp [appendTx]
@[simp] theorem appendTx_script : (appendTx S s).script = s.script := by simp [appendTx]
@[simp] theorem appendTx_pc : (appendTx S s).pc = s.pc := by simp [appendTx]
@[simp] theorem appendTx_replies : (appendTx S s).replies = s.replies := by simp [appendTx]
end AppendTx

end Sys2Proof.Machine

/-! ## What the host port answers, and what one step can do (10_state.md R35, R36; 20_memory.md R53, R55) -/

namespace Sys2Proof.Machine

/-- The read map of R35 as a chain over the offset. -/
theorem portValue_eq (off : Nat) (s : State) :
    portValue off s =
      if off = 0x08 then s.din
      else if off = 0x10 then s.dout
      else if off = 0x18 then s.status.setWidth 64
      else if off = 0x20 then s.crc.setWidth 64
      else if off = 0x28 then s.txlen.setWidth 64
      else if off = 0x30 then s.frlen.setWidth 64
      else if off = 0x38 then s.rxlen.setWidth 64
      else if off = 0x40 then s.cur.setWidth 64
      else if off = 0x48 then s.msg.setWidth 64
      else if off = 0x50 then s.plen.setWidth 64
      else if off = 0x58 then 0x0000000052464531#64
      else 0#64 := by
  unfold portValue
  cases hr : portRegister off with
  | none =>
    unfold portRegister at hr
    split at hr
    case h_13 => simp_all
    all_goals contradiction
  | some r =>
    unfold portRegister at hr
    split at hr
    case h_13 => contradiction
    all_goals cases hr; rfl

/-- `HostWrite` by its offset (10_state.md R36). -/
theorem hostWrite_cmd (v : DWord) (s : State) : hostWrite 0x00 v s = runCommand (v.setWidth 32) s := rfl

theorem hostWrite_of_ne_cmd (offset : Nat) (v : DWord) (s : State) (h : offset ≠ 0x00) :
    hostWrite offset v s = .next (if offset = 0x08 then s.setDin v else s) := by
  have hcmd : portRegister offset ≠ some .cmd := fun e => h ((portRegister_eq_cmd offset).mp e)
  split
  next h8 => subst h8; rfl
  next h8 =>
    have hdin : portRegister offset ≠ some .din := fun e => h8 ((portRegister_eq_din offset).mp e)
    unfold hostWrite
    split
    next e => exact absurd e hcmd
    next e => exact absurd e hdin
    next => rfl

/-- A 64-bit access is performed (20_memory.md R53). -/
theorem perform_write64 (offset : Nat) (v : DWord) (s : State) : perform (.write 64 offset v) s = hostWrite offset v s := rfl

theorem perform_read64 (offset : Nat) (s : State) : perform (.read 64 offset) s = .next (s.reply (portValue offset s)) := rfl

/-- Only 64-bit accesses answer a next state (20_memory.md R53). -/
theorem bits_eq_of_perform_write {bits offset : Nat} {v : DWord} {s t : State} (h : perform (.write bits offset v) s = .next t) :
    bits = 64 := by
  by_contra hb
  simp [perform, hb] at h

theorem bits_eq_of_perform_read {bits offset : Nat} {s t : State} (h : perform (.read bits offset) s = .next t) : bits = 64 := by
  by_contra hb
  simp [perform, hb] at h

/-- The ways a step of the machine can answer a next state (20_memory.md R55): no action pending, a read, a reset, a command word,
or another write, which sets DIN or nothing. -/
inductive StepEffect (s : State) : State → Prop
  | idle (h : s.script[s.pc]? = none) : StepEffect s s
  | read (offset : Nat) (h : s.script[s.pc]? = some (.read 64 offset)) :
      StepEffect s (s.advance.reply (portValue offset s.advance))
  | reset (h : s.script[s.pc]? = some .reset) : StepEffect s (platformReset s.advance)
  | command (v : DWord) (t : State) (h : s.script[s.pc]? = some (.write 64 0x00 v))
      (ht : runCommand (v.setWidth 32) s.advance = .next t) : StepEffect s t
  | writeDin (v : DWord) (h : s.script[s.pc]? = some (.write 64 0x08 v)) : StepEffect s (s.advance.setDin v)
  | writeIgnored (offset : Nat) (v : DWord) (h : s.script[s.pc]? = some (.write 64 offset v)) (h0 : offset ≠ 0x00)
      (h8 : offset ≠ 0x08) : StepEffect s s.advance

/-- The inversion of `step`. -/
theorem stepEffect_of_step {s t : State} (h : step s = .next t) : StepEffect s t := by
  cases ha : s.script[s.pc]? with
  | none =>
    rw [step_of_none s ha] at h
    cases h
    exact .idle ha
  | some a =>
    rw [step_of_action s a ha] at h
    cases a with
    | reset =>
      cases h
      exact .reset ha
    | read bits offset =>
      obtain rfl := bits_eq_of_perform_read h
      cases h
      exact .read offset ha
    | write bits offset v =>
      obtain rfl := bits_eq_of_perform_write h
      rw [perform_write64] at h
      by_cases h0 : offset = 0x00
      · subst h0
        rw [hostWrite_cmd] at h
        exact .command v t ha h
      · rw [hostWrite_of_ne_cmd offset v _ h0] at h
        split at h
        next h8 =>
          subst h8
          cases h
          exact .writeDin v ha
        next h8 =>
          cases h
          exact .writeIgnored offset v ha h0 h8

end Sys2Proof.Machine

/-! ## Which registers a command writes (10_state.md R21 to R31) -/

namespace Sys2Proof.Machine
namespace CommandEffect
variable {s u : State} {i : Instr} {c : ResultCode}

/-- No command touches DIN or the host's side of the port (10_state.md R21, R32). -/
theorem host_side_eq (e : CommandEffect s i c u) :
    u.din = s.din ∧ u.script = s.script ∧ u.pc = s.pc ∧ u.replies = s.replies := by
  cases e with
  | put => simp
  | _ => exact ⟨rfl, rfl, rfl, rfl⟩

theorem dout_eq_or (e : CommandEffect s i c u) : u.dout = s.dout ∨ (∃ idx, i = .frrd idx) ∨ ∃ w, IsGet i w := by
  cases e with
  | frrd idx | frrdPastEnd idx => exact .inr (.inl ⟨idx, rfl⟩)
  | getTooWide hi | getPastEnd hi | get _ hi => exact .inr (.inr ⟨_, hi⟩)
  | put => exact .inl (by simp)
  | _ => exact .inl rfl

theorem crc_eq_or (e : CommandEffect s i c u) :
    u.crc = s.crc ∨ i = .crcclr ∨ (∃ w, i = .crcb w) ∨ i = .crctx ∨ i = .build := by
  cases e with
  | crc _ hi => exact .inr (hi.imp_right (Or.imp_right .inl))
  | build => exact .inr (.inr (.inr (.inr rfl)))
  | put => exact .inl (by simp)
  | _ => exact .inl rfl

theorem tx_eq_or (e : CommandEffect s i c u) : (u.txb = s.txb ∧ u.txlen = s.txlen) ∨ i = .txclr ∨ ∃ w, IsPut i w := by
  cases e with
  | txclr => exact .inr (.inl rfl)
  | put _ hi => exact .inr (.inr ⟨_, hi⟩)
  | _ => exact .inl ⟨rfl, rfl⟩

theorem fr_eq_or (e : CommandEffect s i c u) : (u.frb = s.frb ∧ u.frlen = s.frlen) ∨ i = .build ∨ i = .pack := by
  cases e with
  | build => exact .inr (.inl rfl)
  | pack => exact .inr (.inr rfl)
  | put => exact .inl (by simp)
  | _ => exact .inl ⟨rfl, rfl⟩

theorem rxb_eq_or (e : CommandEffect s i c u) : u.rxb = s.rxb ∨ i = .rxput ∨ i = .loop := by
  cases e with
  | rxput => exact .inr (.inl rfl)
  | loop => exact .inr (.inr rfl)
  | put => exact .inl (by simp)
  | _ => exact .inl rfl

theorem rxlen_eq_or (e : CommandEffect s i c u) : u.rxlen = s.rxlen ∨ i = .rxput ∨ i = .loop ∨ i = .rxclr := by
  cases e with
  | rxput => exact .inr (.inl rfl)
  | loop => exact .inr (.inr (.inl rfl))
  | rxclr => exact .inr (.inr (.inr rfl))
  | put => exact .inl (by simp)
  | _ => exact .inl rfl

/-- A PARSE is among the writers of CUR only when it ends with RC = OK (42_envelope.md R163). -/
theorem cur_eq_or (e : CommandEffect s i c u) :
    u.cur = s.cur ∨ i = .loop ∨ i = .rxclr ∨ (∃ pos, i = .seek pos) ∨
      (∃ elen emsg, i = .parse elen emsg ∧ c = .ok ∧ u.cur = 36#14) ∨ ∃ w, IsGet i w := by
  cases e with
  | loop => exact .inr (.inl rfl)
  | rxclr => exact .inr (.inr (.inl rfl))
  | seek pos => exact .inr (.inr (.inr (.inl ⟨pos, rfl⟩)))
  | parse elen emsg => exact .inr (.inr (.inr (.inr (.inl ⟨elen, emsg, rfl, rfl, rfl⟩))))
  | getTooWide hi | getPastEnd hi | get _ hi => exact .inr (.inr (.inr (.inr (.inr ⟨_, hi⟩))))
  | put => exact .inl (by simp)
  | _ => exact .inl rfl

theorem parsed_eq_or (e : CommandEffect s i c u) :
    (u.msg = s.msg ∧ u.plen = s.plen) ∨ ∃ elen emsg, i = .parse elen emsg ∧ c = .ok := by
  cases e with
  | parse elen emsg => exact .inr ⟨elen, emsg, rfl, rfl⟩
  | put => exact .inl (by simp)
  | _ => exact .inl ⟨rfl, rfl⟩

end CommandEffect

/-- RC after a completed command reads 0 (10_state.md R24). -/
theorem statusWithRc_ok_rc (st : BitVec 32) : statusWithRc st .ok &&& 0xF#32 = 0#32 := by
  rw [statusWithRc_ok, BitVec.and_assoc]
  simp

/-- Settles O23: the writers of each register, read off the effects of the commands. -/
theorem registersAreWrittenOnlyByTheirCommands : Obligations.RegistersAreWrittenOnlyByTheirCommands := by
  intro i s t h
  obtain ⟨c, u, rfl, e⟩ := effect_of_exec h
  refine ⟨e.host_side_eq.1, fun hd => e.dout_eq_or.resolve_left hd, fun hc => e.crc_eq_or.resolve_left hc,
    fun ht => e.tx_eq_or.resolve_left (not_and_or.mpr ht), fun hf => e.fr_eq_or.resolve_left (not_and_or.mpr hf),
    fun hr => e.rxb_eq_or.resolve_left hr, fun hr => e.rxlen_eq_or.resolve_left hr, fun hc => ?_, fun hp => ?_⟩
  · rcases e.cur_eq_or.resolve_left hc with hl | hr | hs | ⟨elen, emsg, hi, rfl, h36⟩ | hg
    · exact .inl hl
    · exact .inr (.inl hr)
    · exact .inr (.inr (.inl hs))
    · exact .inr (.inr (.inr (.inl ⟨elen, emsg, hi, statusWithRc_ok_rc _, h36⟩)))
    · exact .inr (.inr (.inr (.inr hg)))
  · obtain ⟨elen, emsg, hi, rfl⟩ := e.parsed_eq_or.resolve_left (not_and_or.mpr hp)
    exact ⟨elen, emsg, hi, statusWithRc_ok_rc _⟩

end Sys2Proof.Machine

/-! ## The warning flags (10_state.md R23, R25) -/

namespace Sys2Proof.Machine

/-- The commands that can set each warning flag (10_state.md R23); GETD over 64 bits has no encoding. -/
def MayWarn (i : Instr) : Warning → Prop
  | .wwidth => ∃ w, 32 < w ∧ IsGet i w ∧ (i = .getd w → 64 < w)
  | .wrange => ∃ w, IsPut i w ∧ i ≠ .put w
  | .wovf => i = .rxput ∨ ∃ w, IsPut i w
  | .weof => (∃ idx, i = .frrd idx) ∨ ∃ w, IsGet i w

/-- STATUS `st'` has every bit of `st`, and more bits only at flags of `W`. -/
def RaisesOnly (W : Warning → Prop) (st st' : BitVec 32) : Prop :=
  ∀ k, (st.getLsbD k = true → st'.getLsbD k = true) ∧
    (st'.getLsbD k = true → st.getLsbD k = true ∨ ∃ f, W f ∧ warningBit f = k)

theorem RaisesOnly.refl (W : Warning → Prop) (st : BitVec 32) : RaisesOnly W st st := fun _ => ⟨id, .inl⟩

theorem RaisesOnly.warning {W : Warning → Prop} {st st' : BitVec 32} (h : RaisesOnly W st st') {f : Warning} (hf : W f) :
    RaisesOnly W st (statusWithWarning st' f) := by
  intro k
  obtain ⟨keeps, raises⟩ := h k
  rw [getLsbD_statusWithWarning, Bool.or_eq_true, decide_eq_true_eq]
  refine ⟨fun hk => .inl (keeps hk), ?_⟩
  rintro (hk | hk)
  · exact raises hk
  · exact .inr ⟨f, hf, hk⟩

theorem RaisesOnly.warnIf {W : Warning → Prop} {st : BitVec 32} {s : State} (h : RaisesOnly W st s.status) {b : Bool} {f : Warning}
    (hf : b = true → W f) : RaisesOnly W st (warnIf b f s).status := by
  cases b with
  | false => exact h
  | true => exact h.warning (hf rfl)

/-- Every command but DCLR keeps each set flag, and sets only flags that are its own. -/
theorem CommandEffect.raisesOnly {s u : State} {i : Instr} {c : ResultCode} (e : CommandEffect s i c u) (hi : i ≠ .dclr) :
    RaisesOnly (MayWarn i) s.status u.status := by
  have same := RaisesOnly.refl (MayWarn i) s.status
  cases e with
  | dclr => exact absurd rfl hi
  | @put _ w f hp hc =>
    have clamped := same.warnIf (s := s) (f := .wrange) fun h => ⟨w, hp, hc h⟩
    exact clamped.warnIf fun _ => .inr ⟨w, hp⟩
  | rxputFull => exact same.warning (f := .wovf) (.inl rfl)
  | getTooWide hg hw hd => exact same.warning (f := .wwidth) ⟨_, hw, hg, hd⟩
  | getPastEnd hg => exact same.warning (f := .weof) (.inr ⟨_, hg⟩)
  | frrdPastEnd idx => exact same.warning (f := .weof) (.inl ⟨idx, rfl⟩)
  | _ => exact same

/-- DCLR clears the four warning flags and RC (43_control.md R181). -/
theorem exec_dclr_status {s t : State} (h : exec .dclr s = .next t) : t.status = s.status &&& 0xFFFFF0F0#32 := by
  cases h
  rw [setRc_status, statusWithRc_ok]
  exact BitVec.and_assoc ..

/-- A flag that a command sets is one of the command's own. -/
theorem mayWarn_of_exec {i : Instr} {s t : State} (h : exec i s = .next t) (f : Warning)
    (hs : s.status.getLsbD (warningBit f) = false) (ht : t.status.getLsbD (warningBit f) = true) : MayWarn i f := by
  obtain ⟨h8, -⟩ := warningBit_bounds f
  by_cases hi : i = .dclr
  · subst hi
    rw [exec_dclr_status h, BitVec.getLsbD_and, hs, Bool.false_and] at ht
    contradiction
  · obtain ⟨c, u, rfl, e⟩ := effect_of_exec h
    rw [setRc_status, statusWithRc_high _ _ _ (by omega)] at ht
    rcases (e.raisesOnly hi (warningBit f)).2 ht with hk | ⟨g, hg, hgf⟩
    · rw [hs] at hk; contradiction
    · exact warningBit_injective hgf ▸ hg

/-- Settles O21: each flag in turn; a GETD over 64 bits, the one other command that could set WWIDTH, is not well formed. -/
theorem warningsAreSetOnlyByTheirCommands : Obligations.WarningsAreSetOnlyByTheirCommands := by
  intro i s t hwf h
  refine ⟨fun hs ht => ?_, fun hs ht => ?_, mayWarn_of_exec h .wovf, mayWarn_of_exec h .weof⟩
  · obtain ⟨w, hw, hi, hd⟩ := mayWarn_of_exec h .wwidth hs ht
    rcases hi with hi | hi | hi | rfl
    · exact ⟨w, hw, .inl hi⟩
    · exact ⟨w, hw, .inr (.inl hi)⟩
    · exact ⟨w, hw, .inr (.inr hi)⟩
    · have := ((widthOk_iff w).mp hwf).2
      have := hd rfl
      omega
  · obtain ⟨w, hi, hput⟩ := mayWarn_of_exec h .wrange hs ht
    exact ⟨w, hi.resolve_left hput⟩

/-- A delivered command word clears a flag only where it is DCLR. -/
theorem eq_dclr_of_cleared {v : Word} {s t : State} {k : Nat} (hk : 4 ≤ k) (h : runCommand v s = .next t)
    (hs : s.status.getLsbD k = true) (ht : t.status.getLsbD k = false) : decode v = .command .dclr := by
  cases hd : decode v with
  | illegal why =>
    rw [runCommand_illegal v why s hd] at h
    cases h
    have kept := statusWithRc_high s.status .illegal k hk
    exact absurd (hs.symm.trans (kept.symm.trans ht)) (by simp)
  | command i =>
    rw [runCommand_command v i s hd] at h
    by_contra hi
    obtain ⟨c, u, rfl, e⟩ := effect_of_exec h
    have kept := (e.raisesOnly (by simpa using hi) k).1 hs
    rw [setRc_status, statusWithRc_high _ _ _ hk, kept] at ht
    contradiction

/-- Settles O20: a step clears a flag by the platform's reset or by a command word, and of those only DCLR's. -/
theorem onlyDclrOrResetClearsAWarning : Obligations.OnlyDclrOrResetClearsAWarning := by
  refine ⟨fun s t k h8 _ h hs ht => ?_, fun s t h => ?_, fun f s => ⟨warningSet_statusWithWarning _ f, fun hset => ?_⟩⟩
  · cases stepEffect_of_step h with
    | reset ha => exact .inl ha
    | command v _ ha hrun => exact .inr ⟨v, ha, eq_dclr_of_cleared (s := s.advance) (by omega) hrun hs ht⟩
    | idle | read | writeDin | writeIgnored => exact absurd (hs.symm.trans ht) (by simp)
  · rw [exec_dclr_status h, BitVec.and_assoc]
    exact BitVec.and_zero
  · rw [warn, statusWithWarning_of_set _ f hset]
    rfl

end Sys2Proof.Machine

/-! ## The limits of 10_state.md R38 -/

namespace Sys2Proof.Machine

/-- The reserved bits of STATUS, [7:4] and [31:12], are 0 (10_state.md R23). -/
def ReservedClear (st : BitVec 32) : Prop := ∀ k, 4 ≤ k → ¬ (8 ≤ k ∧ k < 12) → st.getLsbD k = false

theorem ReservedClear.warning {st : BitVec 32} (h : ReservedClear st) (f : Warning) : ReservedClear (statusWithWarning st f) := by
  intro k h4 hk
  have hf := warningBit_bounds f
  rw [getLsbD_statusWithWarning, h k h4 hk, Bool.false_or, decide_eq_false_iff_not]
  omega

theorem ReservedClear.withRc {st : BitVec 32} (h : ReservedClear st) (c : ResultCode) : ReservedClear (statusWithRc st c) := by
  intro k h4 hk
  rw [statusWithRc_high st c k h4, h k h4 hk]

theorem ReservedClear.noWarnings {st : BitVec 32} (h : ReservedClear st) : ReservedClear (statusNoWarnings st) := by
  intro k h4 hk
  rw [statusNoWarnings, BitVec.getLsbD_and, h k h4 hk, Bool.false_and]

/-- The reserved bits as the two fields of R23. -/
theorem reservedClear_iff_fields (st : BitVec 32) :
    ReservedClear st ↔ st.extractLsb' 4 4 = 0#4 ∧ st.extractLsb' 12 20 = 0#20 := by
  constructor
  · intro h
    refine ⟨BitVec.eq_of_getLsbD_eq fun k hk => ?_, BitVec.eq_of_getLsbD_eq fun k hk => ?_⟩
    · simp [BitVec.getLsbD_extractLsb', h (4 + k) (by omega) (by omega)]
    · simp [BitVec.getLsbD_extractLsb', h (12 + k) (by omega) (by omega)]
  · rintro ⟨hlow, hhigh⟩ k h4 hk
    by_cases h8 : k < 8
    · have := congrArg (·.getLsbD (k - 4)) hlow
      simpa [BitVec.getLsbD_extractLsb', show k - 4 < 4 by omega, show 4 + (k - 4) = k by omega] using this
    · by_cases h32 : k < 32
      · have := congrArg (·.getLsbD (k - 12)) hhigh
        simpa [BitVec.getLsbD_extractLsb', show k - 12 < 20 by omega, show 12 + (k - 12) = k by omega] using this
      · exact BitVec.getLsbD_of_ge _ _ (by omega)

/-- The reserved bits under their mask. -/
theorem reservedClear_iff_mask (st : BitVec 32) : ReservedClear st ↔ st &&& 0xFFFFF0F0#32 = 0#32 := by
  have mask : ∀ k < 32, (0xFFFFF0F0#32).getLsbD k = decide (4 ≤ k ∧ ¬ (8 ≤ k ∧ k < 12)) := by decide
  constructor
  · intro h
    refine BitVec.eq_of_getLsbD_eq fun k hk => ?_
    rw [BitVec.getLsbD_and, mask k hk]
    by_cases hr : 4 ≤ k ∧ ¬ (8 ≤ k ∧ k < 12)
    · simp [h k hr.1 hr.2]
    · rw [decide_eq_false hr]
      simp
  · intro h k h4 hk
    by_cases h32 : k < 32
    · have := congrArg (·.getLsbD k) h
      simpa [mask k h32, h4, hk] using this
    · exact BitVec.getLsbD_of_ge _ _ (by omega)

/-- STATUS.RC under its mask. -/
theorem rcOf_toNat (st : BitVec 32) : (rcOf st).toNat = (st &&& 0xF#32).toNat := by
  rw [rcOf, BitVec.extractLsb'_toNat, BitVec.toNat_and]
  exact (Nat.and_two_pow_sub_one_eq_mod st.toNat 4).symm

/-- A written result code is at most 5 (10_state.md R24). -/
theorem rcOf_statusWithRc_le (st : BitVec 32) (c : ResultCode) : (rcOf (statusWithRc st c)).toNat ≤ 5 := by
  rw [rcOf_statusWithRc]
  cases c <;> decide

/-- The limits of 10_state.md R38 that a command can break; CUR cannot pass 16383 in its 14 bits, and RC is the last thing written. -/
structure Limits (s : State) : Prop where
  txlen_le : s.txlen.toNat ≤ 8184
  frlen_le : s.frlen.toNat ≤ 1029
  rxlen_le : s.rxlen.toNat ≤ 1029
  reserved : ReservedClear s.status

theorem ceilBytes_le {n : Nat} (h : n ≤ 8184) : ceilBytes n ≤ 1023 := by
  unfold ceilBytes; omega

/-- The frame lengths of PACK and BUILD fit FRLEN's 11 bits. -/
theorem toNat_ofNat_frlen {n : Nat} (h : n ≤ 1029) : (BitVec.ofNat 11 n).toNat = n := by
  rw [BitVec.toNat_ofNat, Nat.mod_eq_of_lt (by omega)]

/-- TXLEN counts the bits appended, without wrapping (40_bitfield.md R100). -/
theorem appendTx_txlen_toNat (S : BitString) (s : State) (h : s.txlen.toNat ≤ 8184) :
    (appendTx S s).txlen.toNat = s.txlen.toNat + (S.take (8184 - s.txlen.toNat)).length := by
  have : (S.take (8184 - s.txlen.toNat)).length ≤ 8184 - s.txlen.toNat := by simp
  rw [appendTx_txlen, BitVec.toNat_add, BitVec.toNat_ofNat]
  omega

theorem appendTx_txlen_le (S : BitString) (s : State) (h : s.txlen.toNat ≤ 8184) : (appendTx S s).txlen.toNat ≤ 8184 := by
  have : (S.take (8184 - s.txlen.toNat)).length ≤ 8184 - s.txlen.toNat := by simp
  rw [appendTx_txlen_toNat S s h]
  omega

theorem ReservedClear.warnIf {s : State} (h : ReservedClear s.status) (b : Bool) (f : Warning) :
    ReservedClear (warnIf b f s).status := by
  cases b with
  | false => exact h
  | true => exact h.warning f

/-- Every command keeps the limits. -/
theorem CommandEffect.limits {s u : State} {i : Instr} {c : ResultCode} (e : CommandEffect s i c u) (h : Limits s) : Limits u := by
  have hn := ceilBytes_le h.txlen_le
  cases e with
  | dclr => exact { h with reserved := h.reserved.noWarnings }
  | txclr => exact { h with txlen_le := Nat.zero_le _ }
  | put f =>
    exact {
      txlen_le := appendTx_txlen_le _ _ (by simpa using h.txlen_le)
      frlen_le := by simpa using h.frlen_le
      rxlen_le := by simpa using h.rxlen_le
      reserved := (h.reserved.warnIf f.clamped .wrange).warnIf _ .wovf }
  | pack => exact { h with frlen_le := by rw [State.setFr_frlen, toNat_ofNat_frlen] <;> omega }
  | build => exact { h with frlen_le := by rw [State.setCrc_frlen, State.setFr_frlen, toNat_ofNat_frlen] <;> omega }
  | rxput hlt => exact { h with rxlen_le := by rw [State.setRx_rxlen, BitVec.toNat_add]; simp; omega }
  | rxclr => exact { h with rxlen_le := Nat.zero_le _ }
  | loop => exact { h with rxlen_le := h.frlen_le }
  | rxputFull => exact { h with reserved := h.reserved.warning .wovf }
  | getTooWide => exact { h with reserved := h.reserved.warning .wwidth }
  | getPastEnd | frrdPastEnd => exact { h with reserved := h.reserved.warning .weof }
  | _ => exact { h with }

theorem Limits.setRc {s : State} (h : Limits s) (c : ResultCode) : Limits (setRc c s) :=
  { h with reserved := h.reserved.withRc c }

/-- Every command word completes within the limits, and with RC at most 5. -/
theorem runCommand_limits (v : Word) {s : State} (h : Limits s) :
    ∃ t, runCommand v s = .next t ∧ Limits t ∧ (rcOf t.status).toNat ≤ 5 := by
  cases hd : decode v with
  | illegal why => exact ⟨_, runCommand_illegal v why s hd, h.setRc .illegal, rcOf_statusWithRc_le _ _⟩
  | command i =>
    obtain ⟨c, u, hu, e⟩ := exec_hasEffect i s
    exact ⟨_, (runCommand_command v i s hd).trans hu, (e.limits h).setRc c, rcOf_statusWithRc_le _ _⟩

/-- Settles O3: the limits of R38 in the spec's own fields are `Limits`, with RC at most 5. -/
theorem commandWordsKeepTheLimits : Obligations.CommandWordsKeepTheLimits := by
  intro v s ⟨htx, hfr, hrx, _, hlow, hhigh, _⟩
  have hs : Limits s := ⟨htx, hfr, hrx, (reservedClear_iff_fields _).mpr ⟨hlow, hhigh⟩⟩
  obtain ⟨t, ht, hl, hrc⟩ := runCommand_limits v hs
  obtain ⟨hlow', hhigh'⟩ := (reservedClear_iff_fields _).mp hl.reserved
  exact ⟨t, ht, hl.txlen_le, hl.frlen_le, hl.rxlen_le, Nat.le_of_lt_succ t.cur.isLt, hlow', hhigh', hrc⟩

end Sys2Proof.Machine

/-! ## The invariant -/

namespace Sys2Proof.Machine

/-- The buffer part of the invariant: TXLEN is the length of TXB, and FRB and RXB are canonical inside their addresses. -/
structure Buffers (s : State) : Prop where
  txlen_eq : s.txlen.toNat = s.txb.length
  frb_wf : s.frb.wf
  rxb_wf : s.rxb.wf
  frb_below : s.frb.below 1029
  rxb_below : s.rxb.below 1029

theorem Memory.below_write {cap a : Nat} {m : Memory} {v : Byte} (h : m.below cap) (ha : a < cap) : (m.write a v).below cap := by
  intro c hc
  rcases Memory.mem_write m a v c hc with ⟨rfl, -⟩ | hm
  · exact ha
  · exact h c hm

theorem Memory.below_writeBytes {cap : Nat} {m : Memory} {B : List Byte} (h : m.below cap) (hB : B.length ≤ cap) :
    (m.writeBytes 0 B).below cap := by
  intro c hc
  rcases Memory.mem_writeBytes m 0 B c hc with ⟨-, hlt⟩ | hm
  · omega
  · exact h c hm

/-- Every command keeps the buffers well formed. -/
theorem CommandEffect.buffers {s u : State} {i : Instr} {c : ResultCode} (e : CommandEffect s i c u) (hl : Limits s)
    (h : Buffers s) : Buffers u := by
  have hn := ceilBytes_le hl.txlen_le
  have hfr := hl.frlen_le
  cases e with
  | txclr => exact { h with txlen_eq := rfl }
  | put f =>
    exact {
      txlen_eq := by
        rw [appendTx_txlen_toNat _ _ (by simpa using hl.txlen_le), appendTx_txb, List.length_append]
        simp [h.txlen_eq]
      frb_wf := by simpa using h.frb_wf
      rxb_wf := by simpa using h.rxb_wf
      frb_below := by simpa using h.frb_below
      rxb_below := by simpa using h.rxb_below }
  | pack =>
    exact { h with
      frb_wf := Memory.wf_writeBytes _ _ _ h.frb_wf
      frb_below := Memory.below_writeBytes h.frb_below (by rw [length_packBits, ← h.txlen_eq]; omega) }
  | build =>
    exact { h with
      frb_wf := Memory.wf_writeBytes _ _ _ h.frb_wf
      frb_below := Memory.below_writeBytes h.frb_below (by omega) }
  | rxput hlt =>
    exact { h with
      rxb_wf := Memory.wf_write _ _ _ h.rxb_wf
      rxb_below := Memory.below_write h.rxb_below hlt }
  | loop =>
    exact { h with
      rxb_wf := Memory.wf_writeBytes _ _ _ h.rxb_wf
      rxb_below := Memory.below_writeBytes h.rxb_below (by rw [length_frBytes]; exact hfr) }
  | _ => exact { h with }

/-- The invariant is the limits, RC at most 5, the buffers, and the host's index within its list. -/
theorem inv_iff (s : State) :
    Inv s ↔ Limits s ∧ (rcOf s.status).toNat ≤ 5 ∧ Buffers s ∧ s.pc ≤ s.script.length := by
  constructor
  · intro h
    exact ⟨⟨h.txlen_le, h.frlen_le, h.rxlen_le, (reservedClear_iff_mask _).mpr h.status_reserved⟩,
      (rcOf_toNat _).symm ▸ h.rc_le, ⟨h.txlen_eq, h.frb_wf, h.rxb_wf, h.frb_below, h.rxb_below⟩, h.pc_le⟩
  · rintro ⟨hl, hrc, hb, hpc⟩
    exact {
      txlen_eq := hb.txlen_eq
      txlen_le := hl.txlen_le
      frlen_le := hl.frlen_le
      rxlen_le := hl.rxlen_le
      cur_le := Nat.le_of_lt_succ s.cur.isLt
      status_reserved := (reservedClear_iff_mask _).mp hl.reserved
      rc_le := by rw [rcOf_toNat] at hrc; exact hrc
      frb_wf := hb.frb_wf
      rxb_wf := hb.rxb_wf
      frb_below := hb.frb_below
      rxb_below := hb.rxb_below
      pc_le := hpc }

/-- Writing a result code keeps the invariant. -/
theorem inv_setRc {s : State} (h : Inv s) (c : ResultCode) : Inv (setRc c s) := by
  obtain ⟨hl, -, hb, hpc⟩ := (inv_iff s).mp h
  exact (inv_iff _).mpr ⟨hl.setRc c, rcOf_statusWithRc_le _ _, { hb with }, hpc⟩

/-- Every command keeps the invariant. -/
theorem inv_exec {i : Instr} {s t : State} (h : Inv s) (he : exec i s = .next t) : Inv t := by
  obtain ⟨hl, -, hb, hpc⟩ := (inv_iff s).mp h
  obtain ⟨c, u, rfl, e⟩ := effect_of_exec he
  obtain ⟨-, hscript, hpcu, -⟩ := e.host_side_eq
  exact (inv_iff _).mpr ⟨(e.limits hl).setRc c, rcOf_statusWithRc_le _ _, { e.buffers hl hb with },
    by rw [setRc_pc, setRc_script, hpcu, hscript]; exact hpc⟩

theorem inv_runCommand {v : Word} {s t : State} (h : Inv s) (ht : runCommand v s = .next t) : Inv t := by
  cases hd : decode v with
  | illegal why =>
    rw [runCommand_illegal v why s hd] at ht
    cases ht
    exact inv_setRc h .illegal
  | command i =>
    rw [runCommand_command v i s hd] at ht
    exact inv_exec h ht

/-- Past a pending action the host's index is still within its list. -/
theorem inv_advance {s : State} {a : HostAction} (h : Inv s) (ha : s.script[s.pc]? = some a) : Inv s.advance := by
  obtain ⟨hlt, -⟩ := List.getElem?_eq_some_iff.mp ha
  exact { h with pc_le := hlt }

/-- Settles O2, clause by clause on the reset state. -/
theorem resetMeetsTheInvariant : Obligations.ResetMeetsTheInvariant := by
  constructor <;> decide

/-- The platform's reset meets the invariant: the registers are those of `State.reset`, the host's side stays (log 8). -/
theorem inv_platformReset {s : State} (h : Inv s) : Inv (platformReset s) :=
  { resetMeetsTheInvariant with pc_le := h.pc_le }

/-- Settles O4: case by case over what a step can do. -/
theorem stepKeepsTheInvariant : Obligations.StepKeepsTheInvariant := by
  intro s t h hstep
  cases stepEffect_of_step hstep with
  | idle => exact h
  | read _ ha => exact { inv_advance h ha with }
  | reset ha => exact inv_platformReset (inv_advance h ha)
  | command _ _ ha hrun => exact inv_runCommand (inv_advance h ha) hrun
  | writeDin _ ha => exact { inv_advance h ha with }
  | writeIgnored _ _ ha _ _ => exact inv_advance h ha

end Sys2Proof.Machine

/-! ## Hidden bytes are unobservable (10_state.md R34)

Two runs from states that agree architecturally: each register update keeps the agreement, each value a command reads is the same in both,
so each command, each host action and each step answer alike. -/

namespace Sys2Proof.Machine

/-- Buffers in canonical form read alike wherever the same bytes were written to both. -/
theorem Memory.read_writeBytes_congr {m m' : Memory} (hm : m.wf) (hm' : m'.wf) {B : List Byte} {a : Nat} (ha : a < B.length) :
    (m'.writeBytes 0 B).read a = (m.writeBytes 0 B).read a := by
  have written := Memory.read_writeBytes m 0 B a ha hm
  have written' := Memory.read_writeBytes m' 0 B a ha hm'
  rw [Nat.zero_add] at written written'
  rw [written, written']

/-- A run of reads depends on the bytes it reads only. -/
theorem Memory.readBytes_congr {m m' : Memory} {n : Nat} (h : ∀ a, a < n → m'.read a = m.read a) :
    m'.readBytes 0 n = m.readBytes 0 n := by
  refine List.ext_getElem (by simp) fun i hi' hi => ?_
  rw [Memory.getElem_readBytes, Memory.getElem_readBytes, Nat.zero_add]
  exact h i (by simpa using hi)

namespace SameArchitectural
variable {s t : State}

/-! ### Updates that keep the agreement -/

theorem setDin (h : SameArchitectural s t) (v : DWord) : SameArchitectural (s.setDin v) (t.setDin v) := { h with din := rfl }

theorem setDout (h : SameArchitectural s t) (v : DWord) : SameArchitectural (s.setDout v) (t.setDout v) := { h with dout := rfl }

theorem setStatus (h : SameArchitectural s t) (v : BitVec 32) : SameArchitectural (s.setStatus v) (t.setStatus v) :=
  { h with status := rfl }

theorem setCrc (h : SameArchitectural s t) (v : BitVec 24) : SameArchitectural (s.setCrc v) (t.setCrc v) := { h with crc := rfl }

theorem setTx (h : SameArchitectural s t) (b : BitString) (n : BitVec 14) : SameArchitectural (s.setTx b n) (t.setTx b n) :=
  { h with txb := rfl, txlen := rfl }

theorem setCur (h : SameArchitectural s t) (v : BitVec 14) : SameArchitectural (s.setCur v) (t.setCur v) := { h with cur := rfl }

theorem setParsed (h : SameArchitectural s t) (m : BitVec 12) (l : BitVec 10) :
    SameArchitectural (s.setParsed m l) (t.setParsed m l) :=
  { h with msg := rfl, plen := rfl }

theorem setFr (h : SameArchitectural s t) {m m' : Memory} {n : BitVec 11} (hm : ∀ a, a < n.toNat → m'.read a = m.read a) :
    SameArchitectural (s.setFr m n) (t.setFr m' n) :=
  { h with frlen := rfl, frb := hm }

theorem setRx (h : SameArchitectural s t) {m m' : Memory} {n : BitVec 11} (hm : ∀ a, a < n.toNat → m'.read a = m.read a) :
    SameArchitectural (s.setRx m n) (t.setRx m' n) :=
  { h with rxlen := rfl, rxb := hm }

theorem advance (h : SameArchitectural s t) : SameArchitectural s.advance t.advance :=
  { h with pc := congrArg (· + 1) h.pc }

theorem reply (h : SameArchitectural s t) (v : DWord) : SameArchitectural (s.reply v) (t.reply v) :=
  { h with replies := congrArg (· ++ [v]) h.replies }

theorem setRc (h : SameArchitectural s t) (c : ResultCode) : SameArchitectural (setRc c s) (setRc c t) := by
  unfold Machine.setRc
  rw [h.status]
  exact h.setStatus _

theorem warn (h : SameArchitectural s t) (f : Warning) : SameArchitectural (warn f s) (warn f t) := by
  unfold Machine.warn
  rw [h.status]
  exact h.setStatus _

theorem warnIf (h : SameArchitectural s t) (b : Bool) (f : Warning) : SameArchitectural (warnIf b f s) (warnIf b f t) := by
  cases b with
  | false => exact h
  | true => exact h.warn f

theorem clearWarnings (h : SameArchitectural s t) : SameArchitectural (clearWarnings s) (clearWarnings t) := by
  unfold Machine.clearWarnings
  rw [h.status]
  exact h.setStatus _

theorem appendTx (h : SameArchitectural s t) (S : BitString) : SameArchitectural (appendTx S s) (appendTx S t) := by
  unfold Machine.appendTx
  rw [h.txb, h.txlen]
  exact (h.warnIf _ .wovf).setTx _ _

theorem platformReset (h : SameArchitectural s t) : SameArchitectural (platformReset s) (platformReset t) := by
  unfold Machine.platformReset
  rw [h.script, h.pc, h.replies]
  constructor <;> simp

/-! ### Values that are the same in both states -/

theorem frBytes_eq (h : SameArchitectural s t) : frBytes t = frBytes s := by
  unfold frBytes
  rw [h.frlen]
  exact Memory.readBytes_congr h.frb

theorem rxBits_eq (h : SameArchitectural s t) : rxBits t = rxBits s := by
  unfold rxBits rxBytes
  rw [h.rxlen, Memory.readBytes_congr h.rxb]

theorem rxComputedCrc_eq (h : SameArchitectural s t) : rxComputedCrc t = rxComputedCrc s := by
  unfold rxComputedCrc
  rw [h.rxlen, Memory.readBytes_congr fun a ha => h.rxb a (by omega)]

theorem rxTrailingCrc_eq (h : SameArchitectural s t) (h3 : 3 ≤ s.rxlen.toNat) : rxTrailingCrc t = rxTrailingCrc s := by
  unfold rxTrailingCrc
  rw [h.rxlen, h.rxb _ (by omega), h.rxb _ (by omega), h.rxb _ (by omega)]

theorem rxLengthField_eq (h : SameArchitectural s t) : rxLengthField t = rxLengthField s := by
  unfold rxLengthField
  rw [h.rxBits_eq]

theorem rxMessageNumber_eq (h : SameArchitectural s t) : rxMessageNumber t = rxMessageNumber s := by
  unfold rxMessageNumber
  rw [h.rxBits_eq]

theorem frameBody_eq (h : SameArchitectural s t) : frameBody t = frameBody s := by
  unfold frameBody paddedPayload
  rw [h.txb, h.txlen]

theorem portValue_eq (h : SameArchitectural s t) (off : Nat) : portValue off t = portValue off s := by
  rw [Machine.portValue_eq, Machine.portValue_eq, h.din, h.dout, h.status, h.crc, h.txlen, h.frlen, h.rxlen, h.cur, h.msg, h.plen]

end SameArchitectural

/-! ### Results that are alike -/

/-- Where the first result is a next state, the second is one that agrees with it architecturally. -/
def Alike (r q : Result) : Prop := ∀ s', r = .next s' → ∃ t', q = .next t' ∧ SameArchitectural s' t'

theorem SameArchitectural.alike {s t : State} (h : SameArchitectural s t) : Alike (.next s) (.next t) := by
  rintro s' ⟨⟩
  exact ⟨t, rfl, h⟩

theorem alike_refused (why : Refusal) (q : Result) : Alike (.refused why) q := by
  rintro s' ⟨⟩

theorem Alike.ite {r q r' q' : Result} {p : Prop} [Decidable p] (h : p → Alike r q) (h' : ¬ p → Alike r' q') :
    Alike (if p then r else r') (if p then q else q') := by
  split
  next hp => exact h hp
  next hp => exact h' hp

section Commands
variable {s t : State}

theorem SameArchitectural.complete (h : SameArchitectural s t) : Alike (complete s) (complete t) := (h.setRc .ok).alike

theorem SameArchitectural.raiseResult (h : SameArchitectural s t) (c : ResultCode) : Alike (raiseResult c s) (raiseResult c t) :=
  (h.setRc c).alike

theorem alike_putField (h : SameArchitectural s t) (f : Field) : Alike (putField f s) (putField f t) :=
  ((h.warnIf _ _).appendTx _).complete

theorem alike_getField (h : SameArchitectural s t) (w lim : Nat) (conv : BitString → DWord) :
    Alike (getField w lim conv s) (getField w lim conv t) := by
  unfold getField
  rw [h.rxlen, h.cur, h.rxBits_eq]
  split_ifs
  · exact (((h.warn _).setDout _).setCur _).complete
  · exact (((h.warn _).setDout _).setCur _).complete
  · exact ((h.setDout _).setCur _).complete

theorem alike_rxput (hs : Inv s) (ht : Inv t) (h : SameArchitectural s t) : Alike (execRxput s) (execRxput t) := by
  unfold execRxput
  rw [h.rxlen, h.din]
  refine Alike.ite (fun hlt => (h.setRx fun a ha => ?_).complete) fun _ => (h.warn .wovf).complete
  by_cases hnew : a = s.rxlen.toNat
  · rw [hnew, Memory.read_write_same _ _ _ ht.rxb_wf, Memory.read_write_same _ _ _ hs.rxb_wf]
  · rw [Memory.read_write_other _ _ _ _ hnew, Memory.read_write_other _ _ _ _ hnew]
    rw [BitVec.toNat_add, BitVec.toNat_ofNat] at ha
    exact h.rxb a (by omega)

theorem alike_loop (hs : Inv s) (ht : Inv t) (h : SameArchitectural s t) : Alike (execLoop s) (execLoop t) := by
  unfold execLoop
  rw [h.frBytes_eq, h.frlen]
  exact ((h.setRx fun a ha => Memory.read_writeBytes_congr hs.rxb_wf ht.rxb_wf (by simpa using ha)).setCur _).complete

theorem alike_frrd (h : SameArchitectural s t) (idx : BitVec 11) : Alike (execFrrd idx s) (execFrrd idx t) := by
  unfold execFrrd
  rw [h.frlen]
  refine Alike.ite (fun hlt => ?_) fun _ => ((h.setDout _).warn _).complete
  rw [h.frb _ hlt]
  exact (h.setDout _).complete

theorem alike_pack (hs : Inv s) (ht : Inv t) (h : SameArchitectural s t) : Alike (execPack s) (execPack t) := by
  have hn := ceilBytes_le hs.txlen_le
  unfold execPack
  rw [h.txb, h.txlen]
  refine (h.setFr fun a ha => Memory.read_writeBytes_congr hs.frb_wf ht.frb_wf ?_).complete
  rw [toNat_ofNat_frlen (by omega), hs.txlen_eq] at ha
  rwa [length_packBits]

theorem alike_build (hs : Inv s) (ht : Inv t) (h : SameArchitectural s t) : Alike (execBuild s) (execBuild t) := by
  have hn := ceilBytes_le hs.txlen_le
  unfold execBuild
  rw [h.txlen, h.frameBody_eq]
  refine ((h.setFr fun a ha => Memory.read_writeBytes_congr hs.frb_wf ht.frb_wf ?_).setCrc _).complete
  rw [toNat_ofNat_frlen (by omega)] at ha
  simpa [crcBytes] using ha

theorem alike_verify (h : SameArchitectural s t) : Alike (execVerify s) (execVerify t) := by
  unfold execVerify
  rw [h.rxlen, h.rxComputedCrc_eq]
  refine Alike.ite (fun _ => h.raiseResult _) fun h3 => ?_
  rw [h.rxTrailingCrc_eq (by omega)]
  exact Alike.ite (fun _ => h.raiseResult _) fun _ => h.complete

theorem alike_parse (h : SameArchitectural s t) (elen : BitVec 10) (emsg : BitVec 12) :
    Alike (execParse elen emsg s) (execParse elen emsg t) := by
  unfold execParse
  rw [h.rxlen, h.rxComputedCrc_eq, h.rxLengthField_eq, h.rxMessageNumber_eq]
  refine Alike.ite (fun _ => h.raiseResult _) fun h6 => ?_
  rw [h.rxTrailingCrc_eq (by omega)]
  refine Alike.ite (fun _ => h.raiseResult _) fun _ => ?_
  refine Alike.ite (fun _ => h.raiseResult _) fun _ => ?_
  exact Alike.ite (fun _ => h.raiseResult _) fun _ => ((h.setParsed _ _).setCur _).complete

/-- No command's result depends on a hidden byte. -/
theorem alike_exec (hs : Inv s) (ht : Inv t) (h : SameArchitectural s t) (i : Instr) : Alike (exec i s) (exec i t) := by
  have field (f : DWord → Field) : Alike (putField (f s.din) s) (putField (f t.din) t) := h.din ▸ alike_putField h _
  cases i with
  | nop => exact h.complete
  | txclr => exact (h.setTx _ _).complete
  | rxclr => exact ((h.setRx (n := 0#11) fun a ha => absurd ha (Nat.not_lt_zero a)).setCur _).complete
  | dclr => exact h.clearWarnings.complete
  | crcclr => exact (h.setCrc _).complete
  | put w => exact field (rawField w)
  | putsm w => exact field (signMagnitudeField w)
  | putss w => exact field (symmetricField w)
  | putsu w => exact field (unsignedField w)
  | pack => exact alike_pack hs ht h
  | getu w | gets w | getsm w | getd w => exact alike_getField h _ _ _
  | seek pos => exact (h.setCur pos).complete
  | rxput => exact alike_rxput hs ht h
  | loop => exact alike_loop hs ht h
  | frrd idx => exact alike_frrd h idx
  | crcb w =>
    simp only [exec, execCrcb]
    rw [h.crc, h.din]
    exact (h.setCrc _).complete
  | crctx =>
    simp only [exec, execCrctx]
    rw [h.txb]
    exact (h.setCrc _).complete
  | verify => exact alike_verify h
  | build => exact alike_build hs ht h
  | parse elen emsg => exact alike_parse h elen emsg

theorem alike_runCommand (hs : Inv s) (ht : Inv t) (h : SameArchitectural s t) (v : Word) :
    Alike (runCommand v s) (runCommand v t) := by
  cases hd : decode v with
  | illegal why =>
    rw [runCommand_illegal v why s hd, runCommand_illegal v why t hd]
    exact h.raiseResult .illegal
  | command i =>
    rw [runCommand_command v i s hd, runCommand_command v i t hd]
    exact alike_exec hs ht h i

theorem alike_hostWrite (hs : Inv s) (ht : Inv t) (h : SameArchitectural s t) (off : Nat) (v : DWord) :
    Alike (hostWrite off v s) (hostWrite off v t) := by
  by_cases h0 : off = 0x00
  · subst h0
    exact alike_runCommand hs ht h _
  · rw [hostWrite_of_ne_cmd off v s h0, hostWrite_of_ne_cmd off v t h0]
    split
    · exact (h.setDin v).alike
    · exact h.alike

theorem alike_hostRead (h : SameArchitectural s t) (off : Nat) : Alike (hostRead off s) (hostRead off t) := by
  unfold hostRead
  rw [h.portValue_eq]
  exact (h.reply _).alike

theorem alike_perform (hs : Inv s) (ht : Inv t) (h : SameArchitectural s t) (a : HostAction) :
    Alike (perform a s) (perform a t) := by
  cases a with
  | write bits off v => exact Alike.ite (fun _ => alike_hostWrite hs ht h off v) fun _ => alike_refused _ _
  | read bits off => exact Alike.ite (fun _ => alike_hostRead h off) fun _ => alike_refused _ _
  | reset => exact h.platformReset.alike

end Commands

/-- Settles O5: both states have the same action pending, and performing it from both answers alike. -/
theorem hiddenBytesAreUnobservable : Obligations.HiddenBytesAreUnobservable := by
  intro s t s' hs ht h hstep
  have pending : t.script[t.pc]? = s.script[s.pc]? := by rw [h.script, h.pc]
  have alike : Alike (step s) (step t) := by
    cases ha : s.script[s.pc]? with
    | none =>
      rw [step_of_none s ha, step_of_none t (pending.trans ha)]
      exact h.alike
    | some a =>
      rw [step_of_action s a ha, step_of_action t a (pending.trans ha)]
      exact alike_perform (inv_advance hs ha) (inv_advance ht (pending.trans ha)) h.advance a
  exact alike s' hstep

end Sys2Proof.Machine

/-! ## The registers after reset, and the host's reads and writes -/

namespace Sys2Proof.Machine

/-- Settles O1, by evaluation of the reset state. -/
theorem resetRegistersHoldTheirValues : Obligations.ResetRegistersHoldTheirValues := by
  refine ⟨rfl, rfl, rfl, rfl, rfl, rfl, rfl, rfl, rfl, rfl, rfl, rfl⟩

/-- Settles O13: the step performs the read, whose value is the read map's. -/
theorem hostReadReturnsTheRegister : Obligations.HostReadReturnsTheRegister := by
  intro s off h
  rw [step_of_action s _ h, perform_read64, portValue_eq]
  rfl

/-- Settles O14: a write to another offset than CMD's sets DIN or nothing. -/
theorem hostWriteOutsideCmdSetsOnlyDin : Obligations.HostWriteOutsideCmdSetsOnlyDin := by
  intro s off v h h0
  rw [step_of_action s _ h, perform_write64, hostWrite_of_ne_cmd off v _ h0]
  split <;> rfl

end Sys2Proof.Machine

/-! ## Delivery of a command word, accesses of another width and unaligned offsets (10_state.md R36; 20_memory.md R53, R55) -/

namespace Sys2Proof.Machine

/-- A 64-bit write to CMD pending is the delivery of its low half (20_memory.md R55). -/
theorem step_of_cmdWrite {s : State} {v : DWord} (h : s.script[s.pc]? = some (.write 64 0x00 v)) :
    step s = runCommand (v.setWidth 32) s.advance := by
  rw [step_of_action s _ h, perform_write64, hostWrite_cmd]

/-- An access of another width than the port's is refused (20_memory.md R53). -/
theorem perform_write_of_ne {bits : Nat} (offset : Nat) (v : DWord) (s : State) (hb : bits ≠ 64) :
    perform (.write bits offset v) s = .refused (.accessWidth bits) := if_neg hb

theorem perform_read_of_ne {bits : Nat} (offset : Nat) (s : State) (hb : bits ≠ 64) :
    perform (.read bits offset) s = .refused (.accessWidth bits) := if_neg hb

/-- Every mapped offset is a multiple of 8 (10_state.md R35). -/
theorem portRegister_of_unaligned {offset : Nat} (h : offset % 8 ≠ 0) : portRegister offset = none := by
  unfold portRegister
  split
  case h_13 => rfl
  all_goals contradiction

/-- An unmapped offset reads 0 (10_state.md R36). -/
theorem portValue_of_unmapped {offset : Nat} (h : portRegister offset = none) (s : State) : portValue offset s = 0#64 := by
  simp only [portValue, h]

/-- An unmapped offset ignores a write (10_state.md R36). -/
theorem hostWrite_of_unmapped {offset : Nat} (h : portRegister offset = none) (v : DWord) (s : State) :
    hostWrite offset v s = .next s := by
  simp only [hostWrite, h]

/-- Settles O12: the delivery of the word, then the two answers of the decoder. -/
theorem stepRunsTheDeliveredCommand : Obligations.StepRunsTheDeliveredCommand := by
  intro s v h
  have delivery := step_of_cmdWrite h
  refine ⟨delivery, fun i hi => ?_, fun why hwhy => ?_⟩
  · rw [delivery, runCommand_command _ i _ hi]
    rfl
  · rw [delivery, runCommand_illegal _ why _ hwhy]
    rfl

/-- Settles O15: another width is refused, and an unaligned offset names no register. -/
theorem otherAccessWidthsAreRefused : Obligations.OtherAccessWidthsAreRefused := by
  intro s bits off v
  refine ⟨fun h hb => ?_, fun h hb => ?_, fun h hoff => ?_, fun h hoff => ?_⟩
  · rw [step_of_action s _ h, perform_write_of_ne off v _ hb]
  · rw [step_of_action s _ h, perform_read_of_ne off _ hb]
  · rw [step_of_action s _ h, perform_write64, hostWrite_of_unmapped (portRegister_of_unaligned hoff)]
    rfl
  · rw [step_of_action s _ h, perform_read64, portValue_of_unmapped (portRegister_of_unaligned hoff)]
    rfl

end Sys2Proof.Machine

/-! ## The rows of the opcode map and the decoder (30_encoding.md R79, R80) -/

namespace Sys2Proof

/-- Under the mask of OP a word keeps its OP and nothing else (30_encoding.md R71). -/
theorem and_opMask (v : Word) : v &&& 0xFC000000#32 = formatN (opOf v) := by
  refine BitVec.eq_of_getLsbD_eq fun i hi => ?_
  simp only [BitVec.getLsbD_and, getLsbD_formatN, BitVec.getLsbD_append, opOf, BitVec.getLsbD_extractLsb']
  interval_cases i <;> simp

theorem opOf_toNat (v : Word) : (opOf v).toNat = v.toNat / 2 ^ 26 := by
  have hv := v.isLt
  rw [opOf, BitVec.extractLsb'_toNat, Nat.shiftRight_eq_div_pow]
  omega

/-- Each row's match is its OP alone, and its mask is the mask of OP with the reserved bits of its format (30_encoding.md R79). -/
theorem opRows_fixed_mask : ∀ r ∈ opRows, r.fixed = formatN r.op ∧ r.fixed &&& 0x03FFFFFF#32 = 0#32 ∧
    r.mask = 0xFC000000#32 ||| (r.mask &&& 0x03FFFFFF#32) := by decide

/-- A word that matches a row has the row's OP: the mask covers OP. -/
theorem opOf_of_match {v : Word} {r : OpRow} (hr : r ∈ opRows) (h : v &&& r.mask = r.fixed) : opOf v = r.op := by
  obtain ⟨hfixed, -, hmask⟩ := opRows_sound r hr
  calc opOf v = opOf v &&& opOf r.mask := by rw [hmask]; exact BitVec.and_allOnes.symm
    _ = opOf (v &&& r.mask) := BitVec.extractLsb'_and.symm
    _ = r.op := by rw [h, hfixed]

/-- A word matches a row exactly when it has the row's OP and every reserved bit of the row's format is 0 (30_encoding.md R79, R81). -/
theorem match_iff_reserved {v : Word} {r : OpRow} (hr : r ∈ opRows) :
    v &&& r.mask = r.fixed ↔ opOf v = r.op ∧ v &&& (r.mask &&& 0x03FFFFFF#32) = 0#32 := by
  obtain ⟨hfixed, hlow, hmask⟩ := opRows_fixed_mask r hr
  refine ⟨fun h => ⟨opOf_of_match hr h, ?_⟩, fun ⟨hop, hres⟩ => ?_⟩
  · rw [← BitVec.and_assoc, h, hlow]
  · rw [hmask, BitVec.and_or_distrib_left, hres, and_opMask, hop, hfixed, BitVec.or_zero]

/-- The search by OP finds the one row with that OP (30_encoding.md R80). -/
theorem find?_opRows_iff {op : BitVec 6} {r : OpRow} :
    opRows.find? (fun q => q.op == op) = some r ↔ r ∈ opRows ∧ r.op = op := by
  have sound {q : OpRow} (hf : opRows.find? (fun q => q.op == op) = some q) : q ∈ opRows ∧ q.op = op :=
    ⟨List.mem_of_find?_eq_some hf, by simpa using List.find?_some hf⟩
  refine ⟨sound, fun ⟨hr, hop⟩ => ?_⟩
  cases hf : opRows.find? (fun q => q.op == op) with
  | none => exact absurd (beq_iff_eq.mpr hop) (List.find?_eq_none.mp hf r hr)
  | some q =>
    have distinct : (opRows.map OpRow.op).Nodup := List.pairwise_map.mpr opRows_distinct
    obtain ⟨hq, hqop⟩ := sound hf
    rw [List.inj_on_of_nodup_map distinct hq hr (hqop.trans hop.symm)]

/-- The three answers of the decoder (30_encoding.md R80): no row has the word's OP, or the one row with its OP accepts or rejects it. -/
theorem decode_of_unassigned {v : Word} (h : opRows.find? (fun r => r.op == opOf v) = none) :
    decode v = .illegal (.unassignedOpcode (opOf v)) := by
  simp only [decode, h]

theorem decode_of_match {v : Word} {r : OpRow} (hr : r ∈ opRows) (h : v &&& r.mask = r.fixed) :
    decode v = .command (r.build v) := by
  simp only [decode, find?_opRows_iff.mpr ⟨hr, (opOf_of_match hr h).symm⟩, if_pos h]

theorem decode_of_reserved {v : Word} {r : OpRow} (hr : r ∈ opRows) (hop : r.op = opOf v) (h : v &&& r.mask ≠ r.fixed) :
    decode v = .illegal (.reservedBit (opOf v)) := by
  simp only [decode, find?_opRows_iff.mpr ⟨hr, hop⟩, if_neg h]

open Laws.RowMatch (rowIndex)

/-- The command a row reads belongs to that row. -/
theorem rowIndex_build (v : Word) {n : Nat} {r : OpRow} (h : opRows[n]? = some r) : rowIndex (r.build v) = n := by
  obtain ⟨hn, rfl⟩ := List.getElem?_eq_some_iff.mp h
  have hn : n < 23 := hn
  interval_cases n <;> rfl

/-- A decoded command is what its row reads from the word, and the word matches the row. -/
theorem row_of_decode {v : Word} {i : Instr} (h : decode v = .command i) :
    ∃ r, opRows[rowIndex i]? = some r ∧ v &&& r.mask = r.fixed ∧ r.build v = i := by
  cases hf : opRows.find? (fun r => r.op == opOf v) with
  | none => simp [decode_of_unassigned hf] at h
  | some r =>
    obtain ⟨hr, hop⟩ := find?_opRows_iff.mp hf
    by_cases hm : v &&& r.mask = r.fixed
    · obtain ⟨n, hn⟩ := List.mem_iff_getElem?.mp hr
      have hb : r.build v = i := by simpa [decode_of_match hr hm] using h
      have hi : rowIndex i = n := hb ▸ rowIndex_build v hn
      exact ⟨r, hi ▸ hn, hm, hb⟩
    · simp [decode_of_reserved hr hop hm] at h

end Sys2Proof

/-! ## A word of each format from its fields (30_encoding.md R72) -/

namespace Sys2Proof

theorem widthOk_widthOf (v : Word) : widthOk (widthOf v) = true := by
  have h := (v.extractLsb' 20 6).isLt
  rw [widthOk_iff, widthOf]
  omega

/-- A word that has `op` and 0 in the reserved bits of a format is the format's word with the fields read from it (30_encoding.md R72). -/
theorem formatN_of_match {op : BitVec 6} {v : Word} (h : v &&& 0xFFFFFFFF#32 = formatN op) : formatN op = v :=
  h.symm.trans BitVec.and_allOnes

/-- What a match under a mask says of one bit: a covered bit of OP is that of `op`, and every other covered bit is 0. -/
theorem getLsbD_of_match {op : BitVec 6} {v mask : Word} (h : v &&& mask = formatN op) (i : Nat) :
    (v.getLsbD i && mask.getLsbD i) = if i < 26 then false else op.getLsbD (i - 26) := by
  rw [← BitVec.getLsbD_and, h, getLsbD_formatN, BitVec.getLsbD_append, BitVec.getLsbD_zero]

theorem formatW_of_match {op : BitVec 6} {v : Word} (h : v &&& 0xFC0FFFFF#32 = formatN op) : formatW op (widthOf v) = v := by
  refine BitVec.eq_of_getLsbD_eq fun i hi => ?_
  have hbit := getLsbD_of_match h i
  simp only [getLsbD_formatW, BitVec.getLsbD_append, widthOf, Nat.add_sub_cancel, BitVec.ofNat_toNat, BitVec.setWidth_eq,
    BitVec.getLsbD_extractLsb']
  interval_cases i <;> simp_all

theorem formatS_of_match {op : BitVec 6} {v : Word} (h : v &&& 0xFFFFC000#32 = formatN op) : formatS op (posOf v) = v := by
  refine BitVec.eq_of_getLsbD_eq fun i hi => ?_
  have hbit := getLsbD_of_match h i
  simp only [getLsbD_formatS, BitVec.getLsbD_append, posOf, BitVec.getLsbD_extractLsb']
  interval_cases i <;> simp_all

theorem formatF_of_match {op : BitVec 6} {v : Word} (h : v &&& 0xFFFFF800#32 = formatN op) : formatF op (idxOf v) = v := by
  refine BitVec.eq_of_getLsbD_eq fun i hi => ?_
  have hbit := getLsbD_of_match h i
  simp only [getLsbD_formatF, BitVec.getLsbD_append, idxOf, BitVec.getLsbD_extractLsb']
  interval_cases i <;> simp_all

theorem formatP_of_match {op : BitVec 6} {v : Word} (h : v &&& 0xFC00000F#32 = formatN op) :
    formatP op (elenOf v) (emsgOf v) = v := by
  refine BitVec.eq_of_getLsbD_eq fun i hi => ?_
  have hbit := getLsbD_of_match h i
  simp only [getLsbD_formatP, BitVec.getLsbD_append, elenOf, emsgOf, BitVec.getLsbD_extractLsb']
  interval_cases i <;> simp_all

end Sys2Proof

/-! ## Decode and encode agree, row by row (30_encoding.md R79, R80) -/

namespace Sys2Proof

open Laws
open Laws.RowMatch (rowIndex)

/-- The decoder answers a command exactly for the words that match the command's row, with the operands read from the word. -/
theorem decode_eq_command_iff {v : Word} {i : Instr} {r : OpRow} (hr : opRows[rowIndex i]? = some r) :
    decode v = .command i ↔ v &&& r.mask = r.fixed ∧ r.build v = i := by
  refine ⟨fun h => ?_, fun ⟨hm, hb⟩ => hb ▸ decode_of_match (List.mem_of_getElem? hr) hm⟩
  obtain ⟨q, hq, hread⟩ := row_of_decode h
  obtain rfl : q = r := Option.some.inj (hq.symm.trans hr)
  exact hread

/-- A command's word decodes to the command when the row reads the operands back. -/
theorem decode_encode_of_row {i : Instr} {r : OpRow} (hi : RowMatch.Statement i) (hr : opRows[rowIndex i]? = some r)
    (hb : r.build (encode i) = i) : decode (encode i) = .command i := by
  obtain ⟨q, hq, -, hm⟩ := hi
  obtain rfl : q = r := Option.some.inj (hq.symm.trans hr)
  exact (decode_eq_command_iff hr).mpr ⟨hm, hb⟩

/-- Settles O7: each command's word lies in the command's row, and the row's field readers find the operands the format wrote. -/
theorem decodeInvertsEncode : Obligations.DecodeInvertsEncode := by
  intro i h
  cases i with
  | nop => exact decode_encode_of_row RowMatch.nop rfl rfl
  | txclr => exact decode_encode_of_row RowMatch.txclr rfl rfl
  | rxclr => exact decode_encode_of_row RowMatch.rxclr rfl rfl
  | dclr => exact decode_encode_of_row RowMatch.dclr rfl rfl
  | crcclr => exact decode_encode_of_row RowMatch.crcclr rfl rfl
  | put w => exact decode_encode_of_row (RowMatch.put w) rfl (congrArg Instr.put (widthOf_formatW _ w h))
  | putsm w => exact decode_encode_of_row (RowMatch.putsm w) rfl (congrArg Instr.putsm (widthOf_formatW _ w h))
  | putss w => exact decode_encode_of_row (RowMatch.putss w) rfl (congrArg Instr.putss (widthOf_formatW _ w h))
  | putsu w => exact decode_encode_of_row (RowMatch.putsu w) rfl (congrArg Instr.putsu (widthOf_formatW _ w h))
  | pack => exact decode_encode_of_row RowMatch.pack rfl rfl
  | getu w => exact decode_encode_of_row (RowMatch.getu w) rfl (congrArg Instr.getu (widthOf_formatW _ w h))
  | gets w => exact decode_encode_of_row (RowMatch.gets w) rfl (congrArg Instr.gets (widthOf_formatW _ w h))
  | getsm w => exact decode_encode_of_row (RowMatch.getsm w) rfl (congrArg Instr.getsm (widthOf_formatW _ w h))
  | getd w => exact decode_encode_of_row (RowMatch.getd w) rfl (congrArg Instr.getd (widthOf_formatW _ w h))
  | seek pos => exact decode_encode_of_row (RowMatch.seek pos) rfl (congrArg Instr.seek (posOf_formatS _ pos))
  | rxput => exact decode_encode_of_row RowMatch.rxput rfl rfl
  | loop => exact decode_encode_of_row RowMatch.loop rfl rfl
  | frrd idx => exact decode_encode_of_row (RowMatch.frrd idx) rfl (congrArg Instr.frrd (idxOf_formatF _ idx))
  | crcb w => exact decode_encode_of_row (RowMatch.crcb w) rfl (congrArg Instr.crcb (widthOf_formatW _ w h))
  | crctx => exact decode_encode_of_row RowMatch.crctx rfl rfl
  | verify => exact decode_encode_of_row RowMatch.verify rfl rfl
  | build => exact decode_encode_of_row RowMatch.build rfl rfl
  | parse elen emsg =>
    exact decode_encode_of_row (RowMatch.parse elen emsg) rfl
      (congrArg₂ Instr.parse (elenOf_formatP _ elen emsg) (emsgOf_formatP _ elen emsg))

/-- What a row reads from a word that matches it is well formed and encodes to the word. -/
theorem encode_build_of_match {v : Word} {i : Instr} {r : OpRow} (hr : opRows[rowIndex i]? = some r) (hm : v &&& r.mask = r.fixed)
    (hb : r.build v = i) : i.wellFormed = true ∧ encode i = v := by
  cases i with
  | put w | putsm w | putss w | putsu w | getu w | gets w | getsm w | getd w | crcb w =>
    cases hr
    cases hb
    exact ⟨widthOk_widthOf v, formatW_of_match hm⟩
  | seek pos => cases hr; cases hb; exact ⟨rfl, formatS_of_match hm⟩
  | frrd idx => cases hr; cases hb; exact ⟨rfl, formatF_of_match hm⟩
  | parse elen emsg => cases hr; cases hb; exact ⟨rfl, formatP_of_match hm⟩
  | _ => cases hr; exact ⟨rfl, formatN_of_match hm⟩

/-- Settles O8: the word matches its command's row, and a row reads from such a word all that its format has. -/
theorem encodeInvertsDecode : Obligations.EncodeInvertsDecode := by
  intro v i h
  obtain ⟨r, hr, hm, hb⟩ := row_of_decode h
  exact encode_build_of_match hr hm hb

/-- A row without operands: its match alone says which command the word is. -/
theorem match_iff_decode {v fixed mask : Word} {op : BitVec 6} {build : Word → Instr} {i : Instr}
    (hr : opRows[rowIndex i]? = some ⟨op, fixed, mask, build⟩) (hb : build v = i) :
    v &&& mask = fixed ↔ decode v = .command i :=
  ⟨fun h => (decode_eq_command_iff hr).mpr ⟨h, hb⟩, fun h => ((decode_eq_command_iff hr).mp h).1⟩

/-- A row with operands `a`, read by `read`: its match says that the word is one of the row's commands. -/
theorem match_iff_exists_decode {α : Type} {v fixed mask : Word} {op : BitVec 6} {f : α → Instr} (read : Word → α)
    (hr : ∀ a, opRows[rowIndex (f a)]? = some ⟨op, fixed, mask, fun v => f (read v)⟩) :
    v &&& mask = fixed ↔ ∃ a, decode v = .command (f a) :=
  ⟨fun h => ⟨read v, (match_iff_decode (hr _) rfl).mp h⟩, fun ⟨a, h⟩ => ((decode_eq_command_iff (hr a)).mp h).1⟩

/-- Settles O9: the rows one by one. -/
theorem decodeFollowsTheOpcodeMap : Obligations.DecodeFollowsTheOpcodeMap := by
  intro v
  have parse : v &&& 0xFC00000F#32 = 0x84000000#32 ↔ ∃ p : BitVec 10 × BitVec 12, decode v = .command (.parse p.1 p.2) :=
    match_iff_exists_decode (fun v => (elenOf v, emsgOf v)) fun _ => rfl
  exact ⟨match_iff_decode rfl rfl, match_iff_decode rfl rfl, match_iff_decode rfl rfl, match_iff_decode rfl rfl,
    match_iff_decode rfl rfl, match_iff_exists_decode widthOf fun _ => rfl, match_iff_exists_decode widthOf fun _ => rfl,
    match_iff_exists_decode widthOf fun _ => rfl, match_iff_exists_decode widthOf fun _ => rfl, match_iff_decode rfl rfl,
    match_iff_exists_decode widthOf fun _ => rfl, match_iff_exists_decode widthOf fun _ => rfl,
    match_iff_exists_decode widthOf fun _ => rfl, match_iff_exists_decode widthOf fun _ => rfl,
    match_iff_exists_decode posOf fun _ => rfl, match_iff_decode rfl rfl, match_iff_decode rfl rfl,
    match_iff_exists_decode idxOf fun _ => rfl, match_iff_exists_decode widthOf fun _ => rfl, match_iff_decode rfl rfl,
    match_iff_decode rfl rfl, match_iff_decode rfl rfl, parse.trans Prod.exists⟩

end Sys2Proof

/-! ## Illegal words and the worked encodings (30_encoding.md R81, R83) -/

namespace Sys2Proof

/-- The reserved bits of the format of an assigned OP (30_encoding.md R72, R79). -/
def reservedBits (op : Nat) : Option Word :=
  if op ∈ [0x00, 0x01, 0x02, 0x03, 0x04, 0x0C, 0x15, 0x16, 0x19, 0x1A, 0x20] then some 0x03FFFFFF#32
  else if op ∈ [0x08, 0x09, 0x0A, 0x0B, 0x10, 0x11, 0x12, 0x13, 0x18] then some 0x000FFFFF#32
  else if op = 0x14 then some 0x03FFC000#32
  else if op = 0x17 then some 0x03FFF800#32
  else if op = 0x21 then some 0x0000000F#32
  else none

/-- The reserved bits of a format are those its row's mask covers beside OP. -/
theorem reservedBits_eq_row : ∀ op : BitVec 6,
    reservedBits op.toNat = (opRows.find? (fun r => r.op == op)).map (fun r => r.mask &&& 0x03FFFFFF#32) := by decide

/-- A word is rejected exactly when its OP is unassigned or a reserved bit of its format is 1 (30_encoding.md R81). -/
theorem exists_illegal_iff (v : Word) :
    (∃ why, decode v = .illegal why) ↔ ∀ m, reservedBits (opOf v).toNat = some m → v &&& m ≠ 0#32 := by
  rw [reservedBits_eq_row]
  cases hf : opRows.find? (fun r => r.op == opOf v) with
  | none => simp [decode_of_unassigned hf]
  | some r =>
    obtain ⟨hr, hop⟩ := find?_opRows_iff.mp hf
    have hmatch : v &&& r.mask = r.fixed ↔ v &&& (r.mask &&& 0x03FFFFFF#32) = 0#32 :=
      (match_iff_reserved hr).trans (and_iff_right hop.symm)
    by_cases hm : v &&& r.mask = r.fixed
    · simp [decode_of_match hr hm, hmatch.mp hm]
    · simpa [decode_of_reserved hr hop hm] using mt hmatch.mpr hm

end Sys2Proof

namespace Sys2Proof.Machine

/-- Settles O10: the rejected words by their reserved bits, and what the delivery of a rejected word answers. -/
theorem illegalWordsOnlySetRcIllegal : Obligations.IllegalWordsOnlySetRcIllegal := by
  intro v s op bad
  have bad_iff : bad = true ↔ ∃ why, decode v = .illegal why := by
    rw [exists_illegal_iff, opOf_toNat]
    change bad = true ↔ ∀ m, reservedBits op = some m → _
    simp only [bad, reservedBits]
    split_ifs <;> simp
  refine ⟨bad_iff, fun h => ?_⟩
  obtain ⟨why, hwhy⟩ := bad_iff.mp h
  exact runCommand_illegal v why s hwhy

/-- Settles O11: each word is the word of its command. -/
theorem workedEncodingsDecode : Obligations.WorkedEncodingsDecode :=
  ⟨decodeInvertsEncode (.put 12) rfl, decodeInvertsEncode (.put 64) rfl, decodeInvertsEncode (.getd 38) rfl,
    decodeInvertsEncode (.seek 36#14) rfl, decodeInvertsEncode (.frrd 24#11) rfl, decodeInvertsEncode (.crcb 8) rfl,
    decodeInvertsEncode (.parse 19#10 1005#12) rfl, decodeInvertsEncode .build rfl, rfl, rfl⟩

end Sys2Proof.Machine

/-! ## The pseudo-instructions (30_encoding.md R84, R85) -/

namespace Sys2Proof.Machine

/-- The delivered word of format W: OP and WM1 in their places (30_encoding.md R72, R74). The bits below WM1, of WM1 and above it
are the three cases. -/
theorem formatW_setWidth (op : BitVec 6) {w : Nat} (h1 : 1 ≤ w) (h64 : w ≤ 64) :
    (formatW op w).setWidth 64 = (formatN op).setWidth 64 ||| BitVec.ofNat 64 ((w - 1) * 2 ^ 20) := by
  have hwm1 : w - 1 < 2 ^ 6 := by omega
  refine BitVec.eq_of_getLsbD_eq fun i hi => ?_
  simp only [BitVec.getLsbD_setWidth, getLsbD_formatW, BitVec.getLsbD_append, BitVec.getLsbD_or, getLsbD_formatN,
    BitVec.getLsbD_ofNat, Nat.testBit_mul_two_pow, decide_eq_true hi, Bool.true_and]
  by_cases h20 : i < 20
  · simp [h20, show i < 26 by omega, show ¬ 20 ≤ i by omega]
  by_cases h26 : i < 26
  · simp [h20, h26, show i - 20 < 6 by omega, show 20 ≤ i by omega]
  · have hhigh : (w - 1).testBit (i - 20) = false :=
      Nat.testBit_eq_false_of_lt (hwm1.trans_le (Nat.pow_le_pow_right (by decide) (by omega)))
    simp [h20, h26, show ¬ i - 20 < 6 by omega, hhigh, Nat.sub_sub]

/-- A pseudo-instruction of a PUT command with a width that has a word (30_encoding.md R85). -/
theorem dinThenCommand_formatW {i : Instr} {op : BitVec 6} {w : Nat} (v : DWord) (hi : encode i = formatW op w)
    (hwf : i.wellFormed = widthOk w) (h1 : 1 ≤ w) (h64 : w ≤ 64) :
    dinThenCommand v i =
      some [.write 64 0x08 v, .write 64 0x00 ((formatN op).setWidth 64 ||| BitVec.ofNat 64 ((w - 1) * 2 ^ 20))] := by
  rw [dinThenCommand_of_wellFormed v i (hwf.trans ((widthOk_iff w).mpr ⟨h1, h64⟩)), hi, ← formatW_setWidth op h1 h64]
  rfl

/-- The command lines of commands that all have a word (30_encoding.md R84). -/
theorem commandLines_of_wellFormed {l : List Instr} (hwf : ∀ i ∈ l, i.wellFormed = true) :
    commandLines l = some (l.map fun i => commandWrite (encode i)) := by
  induction l with
  | nil => rfl
  | cons i l ih =>
    obtain ⟨hi, hl⟩ := List.forall_mem_cons.mp hwf
    rw [commandLines, commandLine_of_wellFormed i hi, ih hl]
    rfl

/-- Settles O54: the expansions are command lines, whose words are those of their formats. -/
theorem pseudoInstructionsExpandByTheTable : Obligations.PseudoInstructionsExpandByTheTable := by
  refine ⟨fun w v h1 h64 => ?_, fun w v hw => ?_, fun v => ?_, fun b0 bs => ?_, ?_, ?_, ?_⟩
  · exact ⟨dinThenCommand_formatW (i := .put w) v rfl rfl h1 h64, dinThenCommand_formatW (i := .putsm w) v rfl rfl h1 h64,
      dinThenCommand_formatW (i := .putss w) v rfl rfl h1 h64, dinThenCommand_formatW (i := .putsu w) v rfl rfl h1 h64⟩
  · have hbad : widthOk w = false := by
      rw [← Bool.not_eq_true, widthOk_iff]
      omega
    exact ⟨dinThenCommand_of_not_wellFormed v (.put w) hbad, dinThenCommand_of_not_wellFormed v (.putsm w) hbad,
      dinThenCommand_of_not_wellFormed v (.putss w) hbad, dinThenCommand_of_not_wellFormed v (.putsu w) hbad⟩
  · exact dinThenCommand_of_wellFormed v (.crcb 8) rfl
  · exact rxLoad_eq (b0 :: bs)
  · exact commandLines_of_wellFormed (l := [.txclr]) (by decide)
  · exact commandLines_of_wellFormed (l := [.seek 0#14]) (by decide)
  · exact commandLines_of_wellFormed (l := [.txclr, .rxclr, .dclr, .crcclr]) (by decide)

end Sys2Proof.Machine

/-! ## Runs of command lines, and RESTART (30_encoding.md R84, R85) -/

namespace Sys2Proof.Machine

/-- A pending command line runs its command. -/
theorem step_of_commandLine {s : State} {i : Instr} (hwf : i.wellFormed = true)
    (h : s.script[s.pc]? = some (commandWrite (encode i))) : step s = exec i s.advance := by
  rw [step_of_cmdWrite h, BitVec.setWidth_setWidth_of_le _ (by decide), BitVec.setWidth_eq]
  exact runCommand_command _ i _ (decodeInvertsEncode i hwf)

/-- The commands of a list run in order, the host's index moving past each before it runs. -/
def execInOrder : List Instr → State → Result
  | [], s => .next s
  | i :: l, s =>
    match exec i s.advance with
    | .next t => execInOrder l t
    | r => r

theorem execInOrder_cons {i : Instr} {s t : State} (l : List Instr) (h : exec i s.advance = .next t) :
    execInOrder (i :: l) s = execInOrder l t := by
  simp only [execInOrder, h]

/-- A run over command lines in the host's list runs their commands in order: no command moves the host's list or its index. -/
theorem run_of_commandLines {l : List Instr} (hwf : ∀ i ∈ l, i.wellFormed = true) {s : State}
    (h : ∀ k, k < l.length → s.script[s.pc + k]? = (l.map fun i => commandWrite (encode i))[k]?) :
    Host.Core.run core l.length s = execInOrder l s := by
  induction l generalizing s with
  | nil => rfl
  | cons i l ih =>
    obtain ⟨hi, hl⟩ := List.forall_mem_cons.mp hwf
    obtain ⟨c, u, hexec, e⟩ := exec_hasEffect i s.advance
    obtain ⟨-, hscript, hpc, -⟩ := e.host_side_eq
    have hstep : core.step s = .next (setRc c u) := (step_of_commandLine hi (h 0 (Nat.succ_pos _))).trans hexec
    have hrest : ∀ k, k < l.length → (setRc c u).script[(setRc c u).pc + k]? = (l.map fun i => commandWrite (encode i))[k]? := by
      intro k hk
      have hk' := h (k + 1) (Nat.succ_lt_succ hk)
      rw [setRc_script, setRc_pc, hscript, hpc, State.advance_script, State.advance_pc, Nat.add_assoc, Nat.add_comm 1 k]
      exact hk'
    rw [List.length_cons, execInOrder_cons l hexec, ← ih hl hrest]
    simp only [Host.Core.run, hstep]

/-- The STATUS of TXCLR, RXCLR, DCLR and CRCCLR in order: each command writes RC = OK, and DCLR clears the warning flags. -/
theorem status_of_restart (st : BitVec 32) :
    statusWithRc (statusWithRc (statusNoWarnings (statusWithRc (statusWithRc st .ok) .ok)) .ok) .ok = st &&& 0xFFFFF0F0#32 := by
  simp only [statusWithRc_ok, statusNoWarnings, BitVec.and_assoc]
  rfl

/-- What the four commands of RESTART do together (30_encoding.md R85). -/
theorem execInOrder_restart (s : State) :
    execInOrder [.txclr, .rxclr, .dclr, .crcclr] s = .next { s with
      pc := s.pc + 4, txb := [], txlen := 0#14, rxlen := 0#11, cur := 0#14, crc := 0#24
      status := s.status &&& 0xFFFFF0F0#32 } := by
  rw [← status_of_restart]
  cases s
  rfl

/-- Settles O18: RESTART is four command lines, whose run is the run of the four commands. -/
theorem restartClearsTheFourParts : Obligations.RestartClearsTheFourParts := by
  have hwf : ∀ i ∈ [Instr.txclr, .rxclr, .dclr, .crcclr], i.wellFormed = true := by decide
  refine ⟨_, commandLines_of_wellFormed hwf, rfl, fun s h => ?_⟩
  exact (run_of_commandLines hwf h).trans (execInOrder_restart s)

end Sys2Proof.Machine

/-! ## Words and STATUS in the numbers of the statements -/

namespace Sys2Proof

/-- The word of format W: OP and WM1 in their places (30_encoding.md R72, R74). -/
theorem formatW_eq (op : BitVec 6) {w : Nat} (h1 : 1 ≤ w) (h64 : w ≤ 64) :
    formatW op w = formatN op ||| BitVec.ofNat 32 ((w - 1) * 2 ^ 20) := by
  have h := congrArg (BitVec.setWidth 32) (Machine.formatW_setWidth op h1 h64)
  rwa [BitVec.setWidth_or, BitVec.setWidth_setWidth_of_le _ (by decide), BitVec.setWidth_setWidth_of_le _ (by decide),
    BitVec.setWidth_eq, BitVec.setWidth_eq, BitVec.setWidth_ofNat_of_le (by decide)] at h

/-- The word of format S: OP, and POS in the low bits (30_encoding.md R72, R75). -/
theorem formatS_eq (op : BitVec 6) (pos : BitVec 14) : formatS op pos = formatN op ||| pos.setWidth 32 := by
  refine BitVec.eq_of_getLsbD_eq fun i hi => ?_
  simp only [BitVec.getLsbD_or, getLsbD_formatS, getLsbD_formatN, BitVec.getLsbD_append, BitVec.getLsbD_setWidth]
  by_cases h14 : i < 14
  · simp [h14, hi, show i < 26 by omega]
  · rw [BitVec.getLsbD_of_ge pos i (by omega)]
    by_cases h26 : i < 26
    · simp [h14, h26, show i - 14 < 12 by omega]
    · simp [h14, h26, show ¬ i - 14 < 12 by omega, Nat.sub_sub]

/-- The word of format F: OP, and IDX in the low bits (30_encoding.md R72, R76). -/
theorem formatF_eq (op : BitVec 6) (idx : BitVec 11) : formatF op idx = formatN op ||| idx.setWidth 32 := by
  refine BitVec.eq_of_getLsbD_eq fun i hi => ?_
  simp only [BitVec.getLsbD_or, getLsbD_formatF, getLsbD_formatN, BitVec.getLsbD_append, BitVec.getLsbD_setWidth]
  by_cases h11 : i < 11
  · simp [h11, hi, show i < 26 by omega]
  · rw [BitVec.getLsbD_of_ge idx i (by omega)]
    by_cases h26 : i < 26
    · simp [h11, h26, show i - 11 < 15 by omega]
    · simp [h11, h26, show ¬ i - 11 < 15 by omega, Nat.sub_sub]

end Sys2Proof

namespace Sys2Proof.Machine

/-- A warning flag raised by a command that completes: RC ← OK leaves the flag. -/
theorem statusWithRc_ok_or_warningMask (st : BitVec 32) (f : Warning) :
    statusWithRc (st ||| warningMask f) .ok = statusWithRc st .ok ||| warningMask f := by
  have hf : warningMask f &&& 0xFFFFFFF0#32 = warningMask f := by cases f <;> rfl
  rw [statusWithRc_ok, statusWithRc_ok, BitVec.and_or_distrib_right, hf]

/-- A completing command answers a next state with the RC bits of STATUS cleared. -/
theorem complete_eq_and (s : State) : complete s = .next (s.setStatus (s.status &&& 0xFFFFFFF0#32)) := by
  rw [complete_eq, statusWithRc_ok]

/-- A command that completes after a warning. -/
theorem complete_warn (f : Warning) (s : State) :
    complete (warn f s) = .next (s.setStatus ((s.status &&& 0xFFFFFFF0#32) ||| warningMask f)) := by
  have h := statusWithRc_ok_or_warningMask s.status f
  rw [statusWithRc_ok s.status] at h
  exact congrArg (fun st => Host.Outcome.next (s.setStatus st)) h

end Sys2Proof.Machine

/-! ## The clearing commands, SEEK and FRRD (40_bitfield.md R105, R112, R114, R120) -/

namespace Sys2Proof.Machine

/-- Settles O26. -/
theorem txclrEmptiesThePayload : Obligations.TxclrEmptiesThePayload :=
  ⟨rfl, fun s => complete_eq_and (s.setTx [] 0#14)⟩

/-- Settles O27. -/
theorem rxclrEmptiesTheInput : Obligations.RxclrEmptiesTheInput :=
  ⟨rfl, fun s => complete_eq_and ((s.setRx s.rxb 0#11).setCur 0#14)⟩

/-- Settles O29. -/
theorem seekSetsTheCursor : Obligations.SeekSetsTheCursor :=
  fun pos s => ⟨formatS_eq 0x14#6 pos, complete_eq_and (s.setCur pos)⟩

/-- Settles O37: the two branches of R120. -/
theorem frrdReadsOneByte : Obligations.FrrdReadsOneByte := by
  intro idx s
  refine ⟨formatF_eq 0x17#6 idx, ?_⟩
  change execFrrd idx s = _
  by_cases h : idx.toNat < s.frlen.toNat
  · have h' : idx < s.frlen := h
    rw [execFrrd, if_pos h, complete_eq_and, if_pos h', if_pos h', BitVec.or_zero]
    rfl
  · have h' : ¬ idx < s.frlen := h
    rw [execFrrd, if_neg h, complete_warn, if_neg h', if_neg h']
    rfl

end Sys2Proof.Machine

/-! ## The PUT commands (40_bitfield.md R101 to R104) -/

namespace Sys2Proof.Machine

/-- STATUS after a PUT command that clamped under `q` and truncated under `p`. -/
theorem statusWithRc_ok_of_put (p q : Prop) [Decidable p] [Decidable q] (st : BitVec 32) :
    statusWithRc (if p then (if q then st ||| 0x200#32 else st) ||| 0x400#32 else if q then st ||| 0x200#32 else st) .ok =
      (st &&& 0xFFFFFFF0#32) ||| (if q then 0x200#32 else 0#32) ||| (if p then 0x400#32 else 0#32) := by
  have range : ∀ st' : BitVec 32, statusWithRc (st' ||| 0x200#32) .ok = statusWithRc st' .ok ||| 0x200#32 :=
    fun st' => statusWithRc_ok_or_warningMask st' .wrange
  have overflow : ∀ st' : BitVec 32, statusWithRc (st' ||| 0x400#32) .ok = statusWithRc st' .ok ||| 0x400#32 :=
    fun st' => statusWithRc_ok_or_warningMask st' .wovf
  split_ifs <;> simp only [overflow, range, statusWithRc_ok, BitVec.or_zero]

/-- All that a PUT command does with a field of w bits, STATUS flag by flag. -/
theorem putField_of_length {f : Field} {w : Nat} (hw : f.bits.length = w) (s : State) :
    putField f s = .next { s with
      txb := s.txb ++ f.bits.take (8184 - s.txlen.toNat)
      txlen := s.txlen + BitVec.ofNat 14 (min w (8184 - s.txlen.toNat))
      status := (s.status &&& 0xFFFFFFF0#32) ||| (if f.clamped = true then 0x200#32 else 0#32) |||
        (if 8184 - s.txlen.toNat < w then 0x400#32 else 0#32) } := by
  rw [putField_eq, statusWithRc_ok_of_put, List.length_take, hw, Nat.min_comm]

/-- Settles O30: the raw field is DIN's low bits, and is never clamped. -/
theorem putAppendsTheRawLowBits : Obligations.PutAppendsTheRawLowBits := by
  intro w s h1 h64 room field
  have hfield : (rawField w s.din).bits = field := by
    simp only [rawField, rawBits, bitsOf_eq_map, BitVec.testBit_toNat, field]
  refine ⟨formatW_eq 0x08#6 h1 h64, ?_⟩
  change putField (rawField w s.din) s = _
  rw [putField_of_length (w := w) (by simp [rawField, rawBits]), hfield]
  simp [rawField, room]

theorem length_signMagnitudeField (v : DWord) {w : Nat} (h1 : 1 ≤ w) : (signMagnitudeField w v).bits.length = w := by
  simp only [signMagnitudeField, List.length_cons, length_bitsOf]
  omega

/-- Settles O31: a sign bit, and the saturated magnitude in the w - 1 bits after it. -/
theorem putsmAppendsSignAndMagnitude : Obligations.PutsmAppendsSignAndMagnitude := by
  intro w s h1 h64 x m room field
  have hfield : (signMagnitudeField w s.din).bits = field := by
    simp only [signMagnitudeField, bitsOf_eq_map, Nat.sub_sub, Nat.reduceAdd, field, x, m]
  refine ⟨formatW_eq 0x09#6 h1 h64, ?_⟩
  change putField (signMagnitudeField w s.din) s = _
  rw [putField_of_length (length_signMagnitudeField s.din h1), hfield]
  simp [signMagnitudeField, room, x]

/-- A clamp changes its operand exactly when the operand lies outside (40_bitfield.md R103, R104). -/
theorem clamp_ne_iff {lo hi x : Int} (h : lo ≤ hi) : clamp lo hi x ≠ x ↔ x < lo ∨ hi < x := by
  unfold clamp
  omega

theorem le_clamp (lo hi x : Int) : lo ≤ clamp lo hi x := le_max_left _ _

theorem clamp_le {lo hi : Int} (h : lo ≤ hi) (x : Int) : clamp lo hi x ≤ hi := max_le h (min_le_left _ _)

/-- The low w bits of the v-bit two's complement of c are its w-bit two's complement. -/
theorem setWidth_ofInt (c : Int) {w v : Nat} (h : w ≤ v) : (BitVec.ofInt v c).setWidth w = BitVec.ofInt w c := by
  apply BitVec.eq_of_toNat_eq
  have hdvd : ((2 ^ w : Nat) : Int) ∣ ((2 ^ v : Nat) : Int) := Int.natCast_dvd_natCast.mpr (Nat.pow_dvd_pow 2 h)
  have hnonneg : 0 ≤ c % ((2 ^ v : Nat) : Int) := Int.emod_nonneg _ (by positivity)
  rw [BitVec.toNat_setWidth, BitVec.toNat_ofInt, BitVec.toNat_ofInt, ← Int.emod_emod_of_dvd c hdvd,
    Int.toNat_emod hnonneg (by positivity), Int.toNat_natCast]

/-- `bits_w` of a 64-bit value, position by position, as the bits of its low w bits. -/
theorem bitsOf_eq_map_setWidth (w : Nat) (v : DWord) :
    bitsOf w v.toNat = (List.range w).map fun i => (v.setWidth w).getLsbD (w - 1 - i) := by
  rw [bitsOf_eq_map]
  refine List.map_congr_left fun i hi => ?_
  rw [List.mem_range] at hi
  rw [BitVec.testBit_toNat, BitVec.getLsbD_setWidth, decide_eq_true (show w - 1 - i < w by omega), Bool.true_and]

/-- All that PUTSS and PUTSU do: the clamped operand's w low bits in two's complement. -/
theorem putField_clampedField {w : Nat} {lo hi : Int} (h : lo ≤ hi) (x : Int) (hw : w ≤ 64) (s : State) :
    putField (clampedField w lo hi x) s = .next { s with
      txb := s.txb ++
        ((List.range w).map fun i => (BitVec.ofInt w (clamp lo hi x)).getLsbD (w - 1 - i)).take (8184 - s.txlen.toNat)
      txlen := s.txlen + BitVec.ofNat 14 (min w (8184 - s.txlen.toNat))
      status := (s.status &&& 0xFFFFFFF0#32) ||| (if x < lo ∨ hi < x then 0x200#32 else 0#32) |||
        (if 8184 - s.txlen.toNat < w then 0x400#32 else 0#32) } := by
  have hbits : (clampedField w lo hi x).bits =
      (List.range w).map fun i => (BitVec.ofInt w (clamp lo hi x)).getLsbD (w - 1 - i) := by
    rw [clampedField, bitsOf_eq_map_setWidth, setWidth_ofInt _ hw]
  rw [putField_of_length (w := w) (by simp [clampedField]), hbits]
  simp only [clampedField, decide_eq_true_eq, clamp_ne_iff h]

/-- Settles O32. -/
theorem putssAppendsTheSymmetricClamp : Obligations.PutssAppendsTheSymmetricClamp := by
  intro w s h1 h64 x hi c room field
  have hpos : (0 : Int) < 2 ^ (w - 1) := by positivity
  exact ⟨formatW_eq 0x0A#6 h1 h64, putField_clampedField (by omega) x h64 s⟩

/-- Settles O33: a value in [0, 2^w - 1] is its own w-bit two's complement. -/
theorem putsuAppendsTheUnsignedClamp : Obligations.PutsuAppendsTheUnsignedClamp := by
  intro w s h1 h64 x hi c room field
  have hpos : (0 : Int) < 2 ^ w := by positivity
  have hnonneg : 0 ≤ c := le_clamp 0 hi x
  have hfield : ((List.range w).map fun i => (BitVec.ofInt w c).getLsbD (w - 1 - i)) = field := by
    refine List.map_congr_left fun i hi => ?_
    rw [List.mem_range] at hi
    rw [← Int.toNat_of_nonneg hnonneg, BitVec.ofInt_natCast, BitVec.getLsbD_ofNat,
      decide_eq_true (show w - 1 - i < w by omega), Bool.true_and, Int.toNat_natCast]
  refine ⟨formatW_eq 0x0B#6 h1 h64, ?_⟩
  rw [← hfield]
  exact putField_clampedField (by omega) x h64 s

end Sys2Proof.Machine

/-! ## PACK, RXPUT and LOOP (40_bitfield.md R106, R111, R113) -/

namespace Sys2Proof.Machine

/-- A list of bytes written to a canonical buffer from address 0: what each address then reads as. -/
theorem Memory.read_writeBytes_zero {m : Memory} (h : m.wf) (B : List Byte) {a : Nat} (ha : a < B.length) :
    (m.writeBytes 0 B).read a = B[a] := by
  have := Memory.read_writeBytes m 0 B a ha h
  rwa [Nat.zero_add] at this

/-- Bit 7 - j of byte i of `pack(S)` is position 8i + j of S left-padded (00_scope.md R10). -/
theorem getLsbD_packBits (S : BitString) {i j : Nat} (hi : i < (packBits S).length) (hj : j < 8) :
    (packBits S)[i].getLsbD (7 - j) = (leftPadded S).getD (8 * i + j) false := by
  have hbits : bytesToBits (packBits S) = leftPadded S := bytesToBits_bytesOf _ _ (length_leftPadded S)
  have hp : 8 * i + j < (bytesToBits (packBits S)).length := by
    rw [length_bytesToBits]
    omega
  rw [← hbits, List.getD_eq_getElem _ _ hp, getElem_bytesToBits]
  simp only [show (8 * i + j) / 8 = i by omega, show (8 * i + j) % 8 = j by omega]

/-- Settles O34: the bytes written are those of `pack(TXB)`, which are TXB left-padded. -/
theorem packWritesTheLeftPaddedBytes : Obligations.PackWritesTheLeftPaddedBytes := by
  refine ⟨rfl, ?_⟩
  intro s h n padded
  have hlen : (packBits s.txb).length = n := by rw [length_packBits, ← h.txlen_eq, ceilBytes]
  have hpadded : leftPadded s.txb = padded := by rw [leftPadded, ← h.txlen_eq]; rfl
  refine ⟨_, complete_eq_and _, rfl, fun i j hi hj => ?_, fun a ha => ?_⟩
  · rw [← hlen] at hi
    rw [← hpadded, ← getLsbD_packBits s.txb hi hj]
    exact congrArg (·.getLsbD (7 - j)) (Memory.read_writeBytes_zero h.frb_wf _ hi)
  · exact Memory.read_writeBytes_other _ _ _ _ (.inr (by omega))

/-- Settles O35: the two branches of R111. -/
theorem rxputAppendsOneByte : Obligations.RxputAppendsOneByte := by
  refine ⟨rfl, fun s hwf => ⟨fun hroom => ?_, fun hfull => ?_⟩⟩
  · refine ⟨_, (if_pos hroom).trans (complete_eq_and _), rfl, ?_, fun a ha => ?_⟩
    · exact (Memory.read_write_same _ _ _ hwf).trans (BitVec.setWidth_eq_extractLsb' (by decide)).symm
    · exact Memory.read_write_other _ _ _ _ ha
  · change execRxput s = _
    rw [execRxput, if_neg (Nat.not_lt.mpr hfull), complete_warn]
    rfl

/-- Settles O36: LOOP writes the valid bytes of FRB from address 0. -/
theorem loopCopiesTheFrame : Obligations.LoopCopiesTheFrame := by
  refine ⟨rfl, fun s hwf => ⟨_, complete_eq_and _, rfl, fun a ha => ?_, fun a ha => ?_⟩⟩
  · have hlt : a < (frBytes s).length := by rwa [length_frBytes]
    refine (Memory.read_writeBytes_zero hwf _ hlt).trans ?_
    simp only [frBytes, Memory.getElem_readBytes, Nat.zero_add]
  · exact Memory.read_writeBytes_other _ _ _ _ (.inr (by rw [length_frBytes]; omega))

end Sys2Proof.Machine

/-! ## The GET commands (40_bitfield.md R115 to R119) -/

namespace Sys2Proof.Machine

/-- All that a GET command of a limit does, STATUS flag by flag (40_bitfield.md R115). -/
theorem getField_status (w lim : Nat) (conv : BitString → DWord) (s : State) :
    getField w lim conv s = .next { s with
      dout := if lim < w ∨ 8 * s.rxlen.toNat < s.cur.toNat + w then 0#64 else conv (slice s.cur.toNat w (rxBits s))
      cur := BitVec.ofNat 14 (min (s.cur.toNat + w) 16383)
      status := (s.status &&& 0xFFFFFFF0#32) |||
        (if lim < w then 0x100#32 else if 8 * s.rxlen.toNat < s.cur.toNat + w then 0x800#32 else 0#32) } := by
  have wide : statusWithRc (s.status ||| 0x100#32) .ok = statusWithRc s.status .ok ||| 0x100#32 :=
    statusWithRc_ok_or_warningMask s.status .wwidth
  have past : statusWithRc (s.status ||| 0x800#32) .ok = statusWithRc s.status .ok ||| 0x800#32 :=
    statusWithRc_ok_or_warningMask s.status .weof
  rw [getField_eq]
  by_cases hw : lim < w
  · simp only [if_pos hw, wide, statusWithRc_ok]
  · simp only [if_neg hw]
    by_cases hp : 8 * s.rxlen.toNat < s.cur.toNat + w
    · simp only [if_pos hp, past, statusWithRc_ok]
    · simp only [if_neg hp, statusWithRc_ok, BitVec.or_zero]

/-- A GET statement from what its conversion makes of the field's bits. -/
theorem exists_dout_of_getField {w lim : Nat} {conv : BitString → DWord} {s : State} {P : DWord → Prop}
    (h : s.cur.toNat + w ≤ 8 * s.rxlen.toNat → P (conv (slice s.cur.toNat w (rxBits s)))) :
    ∃ d : DWord, getField w lim conv s = .next { s with
        dout := d
        cur := BitVec.ofNat 14 (min (s.cur.toNat + w) 16383)
        status := (s.status &&& 0xFFFFFFF0#32) |||
          (if lim < w then 0x100#32 else if 8 * s.rxlen.toNat < s.cur.toNat + w then 0x800#32 else 0#32) } ∧
      (if lim < w ∨ 8 * s.rxlen.toNat < s.cur.toNat + w then d = 0#64 else P d) := by
  refine ⟨_, getField_status w lim conv s, ?_⟩
  split
  · rfl
  next hc => exact h (by omega)

/-- Position j of the field at p is stream bit p + j (20_memory.md R48). -/
theorem getD_slice_rxBits (s : State) {p w j : Nat} (h : p + w ≤ 8 * s.rxlen.toNat) (hj : j < w) :
    (slice p w (rxBits s)).getD j false = rxBit s (p + j) := by
  rw [List.getD_eq_getElem _ _ (by rw [length_slice _ _ _ (by rwa [length_rxBits])]; exact hj)]
  simp [slice, rxBits_eq_map]

/-- Bit k of a zero-extended field (40_bitfield.md R116). -/
theorem getLsbD_readUnsigned (S : BitString) {k : Nat} (hk : k < 64) :
    (readUnsigned S).getLsbD k = (decide (k < S.length) && S.getD (S.length - 1 - k) false) := by
  rw [readUnsigned, BitVec.getLsbD_ofNat, testBit_valOf, decide_eq_true hk, Bool.true_and]

/-- The first bit of a field says whether its value is in the upper half of its range. -/
theorem headD_eq_true_iff (S : BitString) : S.headD false = true ↔ ¬ 2 * valOf S < 2 ^ S.length := by
  cases S with
  | nil => simp
  | cons b S =>
    have hlt := valOf_lt S
    rw [valOf_cons, List.length_cons, pow_succ, List.headD_cons]
    cases b with
    | false =>
      rw [Bool.toNat_false]
      simp only [Bool.false_eq_true, false_iff]
      omega
    | true =>
      rw [Bool.toNat_true]
      simp only [true_iff]
      omega

/-- A field read in two's complement is the sign extension of its bits (40_bitfield.md R117, R119). -/
theorem readTwosComplement_eq_signExtend (S : BitString) :
    readTwosComplement S = (BitVec.ofNat S.length (valOf S)).signExtend 64 := by
  rw [readTwosComplement, BitVec.signExtend, BitVec.toInt_eq_toNat_cond, BitVec.toNat_ofNat, Nat.mod_eq_of_lt (valOf_lt S)]
  congr 1
  by_cases h : 2 * valOf S < 2 ^ S.length
  · rw [if_pos h, if_neg (mt (headD_eq_true_iff S).mp (not_not.mpr h)), sub_zero]
  · rw [if_neg h, if_pos ((headD_eq_true_iff S).mpr h), Nat.cast_pow, Nat.cast_ofNat]

/-- Bit k of a sign-extended field of at least one bit (40_bitfield.md R117). -/
theorem getLsbD_readTwosComplement (S : BitString) (h : 1 ≤ S.length) {k : Nat} (hk : k < 64) :
    (readTwosComplement S).getLsbD k = S.getD (if k < S.length then S.length - 1 - k else 0) false := by
  rw [readTwosComplement_eq_signExtend, BitVec.getLsbD_signExtend, BitVec.msb_eq_getLsbD_last, BitVec.getLsbD_ofNat,
    BitVec.getLsbD_ofNat, testBit_valOf, testBit_valOf, decide_eq_true hk, decide_eq_true (show S.length - 1 < S.length by omega),
    Nat.sub_self, Bool.true_and, Bool.true_and, Bool.true_and]
  split
  next hlt => rw [decide_eq_true hlt, Bool.true_and, Bool.true_and]
  · rfl

/-- A field read in sign and magnitude (40_bitfield.md R118). -/
theorem readSignMagnitude_eq (S : BitString) :
    readSignMagnitude S = if S.headD false = true then -readUnsigned S.tail else readUnsigned S.tail := by
  unfold readSignMagnitude readUnsigned
  split
  · rw [BitVec.ofInt_neg, BitVec.ofInt_natCast]
  · rw [BitVec.ofInt_natCast]

section Fields
variable {s : State} {p w : Nat}

/-- Bit k of the field at p read unsigned, by stream bits (40_bitfield.md R116). -/
theorem getLsbD_readUnsigned_slice (h : p + w ≤ 8 * s.rxlen.toNat) {k : Nat} (hk : k < 64) :
    (readUnsigned (slice p w (rxBits s))).getLsbD k = (decide (k < w) && rxBit s (p + (w - 1 - k))) := by
  have hlen := length_slice p w (rxBits s) (by rwa [length_rxBits])
  rw [getLsbD_readUnsigned _ hk, hlen]
  by_cases hkw : k < w
  · rw [getD_slice_rxBits s h (by omega)]
  · simp [hkw]

/-- Bit k of the field at p read in two's complement, by stream bits (40_bitfield.md R117, R119). -/
theorem getLsbD_readTwosComplement_slice (h : p + w ≤ 8 * s.rxlen.toNat) (h1 : 1 ≤ w) {k : Nat} (hk : k < 64) :
    (readTwosComplement (slice p w (rxBits s))).getLsbD k = rxBit s (if k < w then p + (w - 1 - k) else p) := by
  have hlen := length_slice p w (rxBits s) (by rwa [length_rxBits])
  rw [getLsbD_readTwosComplement _ (by omega) hk, hlen, getD_slice_rxBits s h (by split <;> omega)]
  split <;> rfl

/-- A field of at least one bit is its first bit and the field after it. -/
theorem slice_rxBits_eq_cons (h : p + w ≤ 8 * s.rxlen.toNat) (h1 : 1 ≤ w) :
    slice p w (rxBits s) = rxBit s p :: slice (p + 1) (w - 1) (rxBits s) := by
  obtain ⟨n, rfl⟩ : ∃ n, w = n + 1 := ⟨w - 1, by omega⟩
  have hp : p < (rxBits s).length := by
    rw [length_rxBits]
    omega
  rw [slice, List.drop_eq_getElem_cons hp, List.take_succ_cons]
  simp [slice, rxBits_eq_map]

end Fields

/-- Settles O38. -/
theorem getuReadsAnUnsignedField : Obligations.GetuReadsAnUnsignedField := fun _ s h1 h64 =>
  ⟨formatW_eq 0x10#6 h1 h64, exists_dout_of_getField (lim := 32) (conv := readUnsigned) (s := s)
    fun hin _ hk => getLsbD_readUnsigned_slice hin hk⟩

/-- Settles O39. -/
theorem getsReadsATwosComplementField : Obligations.GetsReadsATwosComplementField := fun _ s h1 h64 =>
  ⟨formatW_eq 0x11#6 h1 h64, exists_dout_of_getField (lim := 32) (conv := readTwosComplement) (s := s)
    fun hin _ hk => getLsbD_readTwosComplement_slice hin h1 hk⟩

/-- Settles O40: the field's first bit is the sign, and the field after it the magnitude. -/
theorem getsmReadsASignMagnitudeField : Obligations.GetsmReadsASignMagnitudeField := by
  intro w s h1 h64 p
  refine ⟨formatW_eq 0x12#6 h1 h64, exists_dout_of_getField (lim := 32) (conv := readSignMagnitude) (s := s) fun hin => ?_⟩
  refine ⟨readUnsigned (slice (p + 1) (w - 1) (rxBits s)), fun k hk => ?_, ?_⟩
  · rw [getLsbD_readUnsigned_slice (by omega) hk]
    by_cases hkw : k < w - 1
    · rw [show p + 1 + (w - 1 - 1 - k) = p + (w - 1 - k) by omega]
    · simp [hkw]
  · rw [slice_rxBits_eq_cons hin h1, readSignMagnitude_eq, List.headD_cons, List.tail_cons]

/-- Settles O41: no width that has a word passes the limit of GETD. -/
theorem getdReadsAWideField : Obligations.GetdReadsAWideField := by
  intro w s h1 h64 p
  have hw : ¬ 64 < w := by omega
  obtain ⟨d, hexec, hd⟩ := exists_dout_of_getField (lim := 64) (conv := readTwosComplement) (s := s)
    (P := fun d => ∀ k, k < 64 → d.getLsbD k = rxBit s (if k < w then p + (w - 1 - k) else p))
    fun hin _ hk => getLsbD_readTwosComplement_slice hin h1 hk
  rw [if_neg hw] at hexec
  simp only [hw, false_or] at hd
  exact ⟨formatW_eq 0x13#6 h1 h64, d, hexec, hd⟩

end Sys2Proof.Machine

/-! ## A built frame, looped: its bits (42_envelope.md R161, 40_bitfield.md R113) -/

namespace Sys2Proof.Machine

@[simp] theorem length_headerBits (n : Nat) : (headerBits n).length = 24 := by
  simp [headerBits, Config.reservedBits, Config.lenBits]

/-- Header and right-padded payload fill n + 3 whole bytes (42_envelope.md R161). -/
theorem length_frameBody {s : State} (h : s.txlen.toNat = s.txb.length) :
    (frameBody s).length = 8 * (ceilBytes s.txlen.toNat + 3) := by
  simp only [frameBody, paddedPayload, List.length_append, length_headerBits, length_zeros, ← h, ceilBytes]
  omega

/-- The valid bytes of FRB after BUILD: the packed body and the three checksum bytes (42_envelope.md R161). -/
theorem frBytes_of_build {s t : State} (hs : Inv s) (hbuild : exec .build s = .next t) :
    frBytes t = bytesOf (ceilBytes s.txlen.toNat + 3) (frameBody s) ++ crcBytes (crc24q 0#24 (frameBody s)) := by
  have hn := ceilBytes_le hs.txlen_le
  cases hbuild
  simp only [frBytes, setRc_frb, setRc_frlen, State.setCrc_frb, State.setCrc_frlen, State.setFr_frb, State.setFr_frlen]
  rw [toNat_ofNat_frlen (by omega)]
  have hlen : (bytesOf (ceilBytes s.txlen.toNat + 3) (frameBody s) ++ crcBytes (crc24q 0#24 (frameBody s))).length =
      ceilBytes s.txlen.toNat + 6 := by
    simp [crcBytes]
  rw [← hlen]
  exact Memory.readBytes_writeBytes _ 0 _ hs.frb_wf

/-- LOOP makes the valid bytes of RXB those of FRB (40_bitfield.md R113). -/
theorem rxBytes_of_loop {t u : State} (ht : t.rxb.wf) (hloop : exec .loop t = .next u) : rxBytes u = frBytes t := by
  have h := Memory.readBytes_writeBytes t.rxb 0 (frBytes t) ht
  rw [length_frBytes] at h
  cases hloop
  exact h

/-- The stream bits of a built and looped frame: header, payload with its padding, checksum (42_envelope.md R160). -/
theorem rxBits_of_build_loop {s t u : State} (hs : Inv s) (hbuild : exec .build s = .next t) (hloop : exec .loop t = .next u) :
    rxBits u = frameBody s ++ bytesToBits (crcBytes (crc24q 0#24 (frameBody s))) := by
  rw [rxBits, rxBytes_of_loop (inv_exec hs hbuild).rxb_wf hloop, frBytes_of_build hs hbuild, bytesToBits_append,
    bytesToBits_bytesOf _ _ (length_frameBody hs.txlen_eq)]

end Sys2Proof.Machine

/-! ## The round trip of 40_bitfield.md R121 -/

namespace Sys2Proof.Machine

/-- `v` is reached from `s` by BUILD, LOOP and SEEK pos. -/
def BuiltLoopedSought (s : State) (pos : BitVec 14) (v : State) : Prop :=
  ∃ t u, exec .build s = .next t ∧ exec .loop t = .next u ∧ exec (.seek pos) u = .next v

/-- Then RXB's stream begins with the header and the payload, and the cursor is where it was put. -/
theorem BuiltLoopedSought.rxBits_and_cur {s v : State} {pos : BitVec 14} (hs : Inv s) (hv : BuiltLoopedSought s pos v) :
    headerBits (ceilBytes s.txlen.toNat) ++ s.txb <+: rxBits v ∧ v.cur = pos := by
  obtain ⟨t, u, hbuild, hloop, hseek⟩ := hv
  have hu := rxBits_of_build_loop hs hbuild hloop
  simp only [frameBody, paddedPayload, ← List.append_assoc] at hu
  rw [List.append_assoc] at hu
  cases hseek
  exact ⟨⟨_, hu.symm⟩, rfl⟩

/-- A GET at the stream position of a payload's bits, after the 24 header bits, reads those bits. -/
theorem getField_of_builtLoopedSought {s v : State} {pos : BitVec 14} {S T : BitString} {lim : Nat} (conv : BitString → DWord)
    (hs : Inv s) (hv : BuiltLoopedSought s pos v) (hpre : S ++ T <+: s.txb) (hpos : pos.toNat = 24 + S.length)
    (hlim : T.length ≤ lim) : ∃ x, getField T.length lim conv v = .next x ∧ x.dout = conv T := by
  obtain ⟨⟨after, hafter⟩, hcur⟩ := hv.rxBits_and_cur hs
  obtain ⟨rest, hrest⟩ := hpre
  have hbits : headerBits (ceilBytes s.txlen.toNat) ++ S ++ T ++ (rest ++ after) = rxBits v := by
    simp only [← hafter, ← hrest, List.append_assoc]
  have hfits : pos.toNat + T.length ≤ 8 * v.rxlen.toNat := by
    rw [← length_rxBits v, ← hbits]
    simp only [List.length_append, length_headerBits]
    omega
  have hslice : slice pos.toNat T.length (rxBits v) = T := by
    have h := slice_append (headerBits (ceilBytes s.txlen.toNat) ++ S) T (rest ++ after)
    rwa [List.length_append, length_headerBits, ← hpos, hbits] at h
  refine ⟨_, getField_status _ _ _ _, ?_⟩
  simp only [hcur, hslice]
  exact if_neg (by omega)

/-- A field that fits is appended whole (40_bitfield.md R100). -/
theorem txb_of_putField {f : Field} {s t : State} (hfit : s.txlen.toNat + f.bits.length ≤ 8184) (h : putField f s = .next t) :
    t.txb = s.txb ++ f.bits := by
  rw [putField_eq] at h
  cases h
  exact congrArg (s.txb ++ ·) (List.take_of_length_le (by omega))

/-- The round trip for any field: a GET at the field's position converts exactly the bits that were put. -/
theorem getField_of_putField {s s1 s2 v : State} {f : Field} {w lim : Nat} (conv : BitString → DWord) (hs : Inv s)
    (hfit : s.txlen.toNat + w ≤ 8184) (hlen : f.bits.length = w) (hput : putField f s = .next s1) (hs2 : Inv s2)
    (hpre : s1.txb <+: s2.txb) (hv : BuiltLoopedSought s2 (24#14 + s.txlen) v) (hlim : w ≤ lim) :
    ∃ x, getField w lim conv v = .next x ∧ x.dout = conv f.bits := by
  subst hlen
  rw [txb_of_putField hfit hput] at hpre
  refine getField_of_builtLoopedSought conv hs2 hv hpre ?_ hlim
  rw [BitVec.toNat_add, BitVec.toNat_ofNat, ← hs.txlen_eq]
  omega

/-- Raw bits read unsigned are DIN mod 2^w (40_bitfield.md R101, R116). -/
theorem toNat_readUnsigned_rawBits (v : DWord) (w : Nat) :
    (readUnsigned (rawBits w v)).toNat = v.toNat % 2 ^ w := by
  have hlt : v.toNat % 2 ^ w < 2 ^ 64 := (Nat.mod_le _ _).trans_lt v.isLt
  rw [readUnsigned, rawBits, valOf_bitsOf, BitVec.toNat_ofNat, Nat.mod_eq_of_lt hlt]

/-- The low w bits of a value read in two's complement are its sign extension from w bits (40_bitfield.md R101, R117). -/
theorem readTwosComplement_bitsOf (v : DWord) (w : Nat) :
    readTwosComplement (bitsOf w v.toNat) = (v.setWidth w).signExtend 64 := by
  have hlow : BitVec.ofNat w (v.toNat % 2 ^ w) = v.setWidth w := by
    apply BitVec.eq_of_toNat_eq
    rw [BitVec.toNat_ofNat, BitVec.toNat_setWidth, Nat.mod_mod]
  rw [readTwosComplement_eq_signExtend, length_bitsOf, valOf_bitsOf, hlow]

/-- Settles O52: the round trip with the raw field, and what each GET makes of it. -/
theorem rawFieldsReadBack : Obligations.RawFieldsReadBack := by
  intro w s s1 s2 t u v h1 h64 hs hfit hput hs2 hpre hbuild hloop hseek
  have reads : ∀ (lim : Nat) (conv : BitString → DWord), w ≤ lim →
      ∃ x, getField w lim conv v = .next x ∧ x.dout = conv (rawBits w s.din) := fun lim conv hlim =>
    getField_of_putField conv (f := rawField w s.din) hs hfit (length_bitsOf _ _) hput hs2 hpre ⟨t, u, hbuild, hloop, hseek⟩ hlim
  refine ⟨fun h32 => ?_, fun h32 => ?_, ?_⟩
  · obtain ⟨x, hx, hd⟩ := reads 32 readUnsigned h32
    exact ⟨x, hx, hd ▸ toNat_readUnsigned_rawBits s.din w⟩
  · obtain ⟨x, hx, hd⟩ := reads 32 readTwosComplement h32
    exact ⟨x, hx, hd.trans (readTwosComplement_bitsOf s.din w)⟩
  · obtain ⟨x, hx, hd⟩ := reads 64 readTwosComplement h64
    exact ⟨x, hx, hd.trans (readTwosComplement_bitsOf s.din w)⟩

/-- The field of PUTSS read in two's complement is the clamped operand (40_bitfield.md R103, R117). -/
theorem toInt_readTwosComplement_symmetricField (v : DWord) {w : Nat} (h1 : 1 ≤ w) (h64 : w ≤ 64) :
    (readTwosComplement (symmetricField w v).bits).toInt = clamp (-(2 ^ (w - 1) - 1)) (2 ^ (w - 1) - 1) v.toInt := by
  have hpos : (0 : Int) < 2 ^ (w - 1) := by positivity
  have hlo := le_clamp (-(2 ^ (w - 1) - 1)) (2 ^ (w - 1) - 1) v.toInt
  have hhi := clamp_le (lo := -(2 ^ (w - 1) - 1)) (hi := 2 ^ (w - 1) - 1) (by omega) v.toInt
  rw [symmetricField, clampedField, readTwosComplement_bitsOf, setWidth_ofInt _ h64, BitVec.toInt_signExtend_of_le h64,
    BitVec.toInt_ofInt_eq_self h1 (by omega) (by omega)]

/-- Sign and saturated magnitude are the symmetric clamp (40_bitfield.md R102). -/
theorem ite_neg_min_natAbs_eq_clamp (x : Int) (m : Nat) :
    (if x < 0 then -((min x.natAbs m : Nat) : Int) else ((min x.natAbs m : Nat) : Int)) = clamp (-m) m x := by
  unfold clamp
  split <;> omega

/-- The field of PUTSM read in sign and magnitude is the clamped operand (40_bitfield.md R102, R118). -/
theorem toInt_readSignMagnitude_signMagnitudeField (v : DWord) {w : Nat} (h1 : 1 ≤ w) (h64 : w ≤ 64) :
    (readSignMagnitude (signMagnitudeField w v).bits).toInt = clamp (-(2 ^ (w - 1) - 1)) (2 ^ (w - 1) - 1) v.toInt := by
  have hpos : 0 < 2 ^ (w - 1) := by positivity
  have hmax : 2 ^ (w - 1) ≤ 2 ^ 63 := Nat.pow_le_pow_right (by decide) (by omega)
  have hcast : ((2 ^ (w - 1) - 1 : Nat) : Int) = 2 ^ (w - 1) - 1 := by
    rw [Nat.cast_pred hpos, Nat.cast_pow, Nat.cast_ofNat]
  rw [← hcast]
  generalize hm : 2 ^ (w - 1) - 1 = m
  have hmag : min v.toInt.natAbs m % 2 ^ (w - 1) = min v.toInt.natAbs m := Nat.mod_eq_of_lt (by omega)
  have hlo := le_clamp (-m) m v.toInt
  have hhi := clamp_le (lo := -m) (hi := m) (by omega) v.toInt
  simp only [readSignMagnitude, signMagnitudeField, List.headD_cons, List.tail_cons, valOf_bitsOf, hm, hmag, decide_eq_true_eq,
    ite_neg_min_natAbs_eq_clamp]
  exact BitVec.toInt_ofInt_eq_self (by decide) (by omega) (by omega)

/-- Settles O53: the round trip with each clamped field, and the value its GET makes of it. -/
theorem clampedFieldsReadBack : Obligations.ClampedFieldsReadBack := by
  intro w s s1 s2 t u v h1 h32 hs hfit hs2 hpre hbuild hloop hseek hi c
  have hv : BuiltLoopedSought s2 (24#14 + s.txlen) v := ⟨t, u, hbuild, hloop, hseek⟩
  refine ⟨fun hput => ?_, fun hput => ?_⟩
  · obtain ⟨x, hx, hd⟩ := getField_of_putField readSignMagnitude hs hfit (length_signMagnitudeField s.din h1) hput hs2 hpre hv h32
    exact ⟨x, hx, hd ▸ toInt_readSignMagnitude_signMagnitudeField s.din h1 (by omega)⟩
  · obtain ⟨x, hx, hd⟩ := getField_of_putField readTwosComplement (f := symmetricField w s.din) hs hfit (length_bitsOf _ _) hput
      hs2 hpre hv h32
    exact ⟨x, hx, hd ▸ toInt_readTwosComplement_symmetricField s.din h1 (by omega)⟩

end Sys2Proof.Machine

/-! ## CRCCLR and CRCB (41_crc.md R142, R143) -/

namespace Sys2Proof.Machine

/-- Settles O28. -/
theorem crcclrZeroesTheCrc : Obligations.CrcclrZeroesTheCrc :=
  ⟨rfl, fun s => complete_eq_and (s.setCrc 0#24)⟩

/-- CRCB's fold over the bits of DIN is the loop of R140 over their positions, DIN[w-1] first (41_crc.md R143). -/
theorem crc24q_rawBits (c : BitVec 24) (w : Nat) (v : DWord) :
    crc24q c (rawBits w v) = (List.range w).foldl (fun c i => crcBit c (v.getLsbD (w - 1 - i))) c := by
  rw [crc24q, rawBits, bitsOf_eq_map, List.foldl_map]
  rfl

/-- Settles O42: the model's fold is the loop of R140, written out. -/
theorem crcbRunsTheUpdateLoop : Obligations.CrcbRunsTheUpdateLoop := by
  intro w s h1 h64
  refine ⟨formatW_eq 0x18#6 h1 h64, ?_⟩
  change complete (s.setCrc (crc24q s.crc (rawBits w s.din))) = _
  rw [crc24q_rawBits, complete_eq_and]
  rfl

end Sys2Proof.Machine

/-! ## A failed command (60_exceptions.md R206) -/

namespace Sys2Proof.Machine

/-- Before it writes a code other than OK, a command has changed nothing (60_exceptions.md R206). -/
theorem CommandEffect.eq_of_ne_ok {i : Instr} {c : ResultCode} {s u : State} (e : CommandEffect s i c u) (hc : c ≠ .ok) :
    u = s := by
  cases e with
  | verify | parseFailed => rfl
  | _ => exact absurd rfl hc

/-- STATUS.RC after a code is written is the code's number (10_state.md R24). -/
theorem statusWithRc_rc (st : BitVec 32) (c : ResultCode) : statusWithRc st c &&& 0xF#32 = resultNumber c := by
  have hcode : resultNumber c &&& 0xF#32 = resultNumber c := by cases c <;> rfl
  have hrest : (st &&& 0xFFFFFFF0#32) &&& 0xF#32 = 0#32 := by
    rw [BitVec.and_assoc]
    exact BitVec.and_zero
  rw [statusWithRc, BitVec.and_or_distrib_right, hcode, hrest, BitVec.zero_or]

/-- A delivered command word ends with RC = OK, or writes its result code and nothing else. -/
theorem rc_ok_or_eq_setRc {v : Word} {s t : State} (h : runCommand v s = .next t) :
    t.status &&& 0xF#32 = 0#32 ∨ ∃ c, t = setRc c s := by
  cases hd : decode v with
  | illegal why =>
    rw [runCommand_illegal v why s hd] at h
    cases h
    exact .inr ⟨.illegal, rfl⟩
  | command i =>
    rw [runCommand_command v i s hd] at h
    obtain ⟨c, u, rfl, e⟩ := effect_of_exec h
    by_cases hc : c = .ok
    · subst hc
      exact .inl (statusWithRc_ok_rc u.status)
    · exact .inr ⟨c, by rw [e.eq_of_ne_ok hc]⟩

/-- Settles O22. -/
theorem failedCommandChangesOnlyRc : Obligations.FailedCommandChangesOnlyRc := by
  intro v s t h hrc
  obtain ⟨c, rfl⟩ := (rc_ok_or_eq_setRc h).resolve_left hrc
  rw [setRc_status, statusWithRc_rc]
  rfl

end Sys2Proof.Machine

/-! ## The laws of crc24q, and CRCTX (41_crc.md R141, R144) -/

namespace Sys2Proof.Machine

/-- "A 0 bit into a zero register leaves it zero" (41_crc.md R141 law 2). -/
theorem crc24q_zeros_append (k : Nat) (S : BitString) : crc24q 0#24 (zeros k ++ S) = crc24q 0#24 S := by
  induction k with
  | zero => rfl
  | succ k ih => exact ih

/-- The bytes of `pack(S)` are S with zeros in front (00_scope.md R10). -/
theorem bytesToBits_packBits (S : BitString) : bytesToBits (packBits S) = leftPadded S :=
  bytesToBits_bytesOf _ _ (length_leftPadded S)

/-- The CRC of the packed bytes is that of the bits (41_crc.md R141 law 3). -/
theorem crc24q_packBits (S : BitString) : crc24q 0#24 (bytesToBits (packBits S)) = crc24q 0#24 S := by
  rw [bytesToBits_packBits, leftPadded, crc24q_zeros_append]

/-- Feeding the register its own first bit only shifts it. -/
theorem crcBit_msb (c : BitVec 24) : crcBit c c.msb = c <<< 1 := by simp [crcBit]

/-- The k bits of v, fed to a register that begins with them and is 0 after them, shift out and leave 0. -/
theorem crc24q_bitsOf_shifted (v : Nat) {k : Nat} (hk : k ≤ 24) :
    crc24q (BitVec.ofNat 24 v <<< (24 - k)) (bitsOf k v) = 0#24 := by
  induction k with
  | zero => exact BitVec.shiftLeft_eq_zero (le_refl 24)
  | succ k ih =>
    have hmsb : (BitVec.ofNat 24 v <<< (24 - (k + 1))).msb = v.testBit k := by
      rw [BitVec.msb_eq_getLsbD_last, BitVec.getLsbD_shiftLeft, BitVec.getLsbD_ofNat,
        show 24 - 1 - (24 - (k + 1)) = k by omega]
      simp [show k < 24 by omega]
    rw [bitsOf, crc24q_cons, ← hmsb, crcBit_msb, ← BitVec.shiftLeft_add, show 24 - (k + 1) + 1 = 24 - k by omega]
    exact ih (by omega)

/-- A register fed its own 24 bits becomes 0 (41_crc.md R141 law 4). -/
theorem crc24q_self (c : BitVec 24) : crc24q c (bitsOf 24 c.toNat) = 0#24 := by
  have h := crc24q_bitsOf_shifted c.toNat (le_refl 24)
  rwa [BitVec.ofNat_toNat, BitVec.setWidth_eq, Nat.sub_self, BitVec.shiftLeft_zero] at h

/-- Settles O44. -/
theorem crcLaws : Obligations.CrcLaws := by
  refine ⟨fun c S T => (crc24q_append c S T).symm, crc24q_zeros_append, crc24q_packBits, fun S => ?_, fun b B => ?_⟩
  · rw [crc24q_append, crc24q_self]
  · rw [bytesToBits_cons, crc24q_append]

/-- Settles O43. -/
theorem crctxIsTheCrcOfThePackedPayload : Obligations.CrctxIsTheCrcOfThePackedPayload :=
  ⟨rfl, fun s => ⟨complete_eq_and (s.setCrc (crc24q 0#24 s.txb)), (crc24q_packBits s.txb).symm⟩⟩

end Sys2Proof.Machine

/-! ## VERIFY (41_crc.md R145) -/

namespace Sys2Proof.Machine

/-- The bits of a run of bytes from address 0, by stream position (20_memory.md R48). -/
theorem bytesToBits_readBytes (m : Memory) (n : Nat) :
    bytesToBits (m.readBytes 0 n) = (List.range (8 * n)).map (fun p => (m.read (p / 8)).getLsbD (7 - p % 8)) := by
  refine List.ext_getElem (by simp) (fun i _ _ => ?_)
  simp only [getElem_bytesToBits, Memory.getElem_readBytes, Nat.zero_add, List.getElem_map, List.getElem_range]

/-- The computed checksum, over stream bits (41_crc.md R145). -/
theorem rxComputedCrc_eq_map (s : State) :
    rxComputedCrc s = crc24q 0#24 ((List.range (8 * (s.rxlen.toNat - 3))).map (rxBit s)) :=
  congrArg (crc24q 0#24) (bytesToBits_readBytes s.rxb _)

/-- Three bytes read big-endian as one number. -/
theorem toNat_append_bytes (a b c : Byte) : (a ++ b ++ c).toNat = a.toNat * 2 ^ 16 + b.toNat * 2 ^ 8 + c.toNat := by
  have hb := b.isLt
  have hc := c.isLt
  rw [BitVec.toNat_append, BitVec.toNat_append, ← Nat.shiftLeft_add_eq_or_of_lt hb, ← Nat.shiftLeft_add_eq_or_of_lt hc,
    Nat.shiftLeft_eq, Nat.shiftLeft_eq]
  omega

/-- The received checksum, in byte values (41_crc.md R145). -/
theorem toNat_rxTrailingCrc (s : State) :
    (rxTrailingCrc s).toNat = (s.rxb.read (s.rxlen.toNat - 3)).toNat * 2 ^ 16 +
      (s.rxb.read (s.rxlen.toNat - 2)).toNat * 2 ^ 8 + (s.rxb.read (s.rxlen.toNat - 1)).toNat :=
  toNat_append_bytes _ _ _

/-- Settles O46: the branches of VERIFY, each of which only writes STATUS.RC. -/
theorem verifyComparesTheTrailingCrc : Obligations.VerifyComparesTheTrailingCrc := by
  refine ⟨rfl, ?_⟩
  intro s n c r
  have hmismatch : rxComputedCrc s ≠ rxTrailingCrc s ↔ c.toNat ≠ r := by
    rw [Ne, ← BitVec.toNat_inj, rxComputedCrc_eq_map, toNat_rxTrailingCrc]
  change execVerify s = _
  unfold execVerify
  by_cases hshort : n < 3
  · rw [if_pos hshort, if_pos hshort]
    rfl
  · rw [if_neg hshort, if_neg hshort]
    by_cases hcrc : c.toNat ≠ r
    · rw [if_pos (hmismatch.mpr hcrc), if_pos hcrc]
      rfl
    · rw [if_neg (mt hmismatch.mp hcrc), if_neg hcrc]
      rfl

end Sys2Proof.Machine

/-! ## The residue of a received frame (41_crc.md R141 law 4)

VERIFY passes exactly when the CRC of the whole received stream, its checksum included, is 0. -/

namespace Sys2Proof.Machine

/-- Bit 0 of the register after an update is the bit that was fed back: the polynomial's constant term is 1 (41_crc.md R140, R146). -/
theorem getLsbD_zero_crcBit (c : BitVec 24) (b : Bool) : (crcBit c b).getLsbD 0 = (c.msb ^^ b) := by
  have hpoly : Config.polyLow.getLsbD 0 = true := rfl
  unfold crcBit
  cases c.msb ^^ b with
  | false => rw [if_neg (by decide), BitVec.getLsbD_shiftLeft]; rfl
  | true => rw [if_pos rfl, BitVec.getLsbD_xor, BitVec.getLsbD_shiftLeft, hpoly]; rfl

/-- An update can be undone: bit 0 tells what was fed back, and the rest is the register shifted. -/
theorem crcBit_injective (b : Bool) : Function.Injective (crcBit · b) := by
  intro c d h
  have hmsb : c.msb = d.msb := by
    have h0 := congrArg (·.getLsbD 0) h
    simpa only [getLsbD_zero_crcBit, Bool.xor_left_inj] using h0
  have hshift : c <<< 1 = d <<< 1 := by
    simp only [crcBit, hmsb] at h
    split at h
    · exact (BitVec.xor_left_inj _).mp h
    · exact h
  refine BitVec.eq_of_getLsbD_eq fun k hk => ?_
  by_cases htop : k = 23
  · subst htop
    rwa [BitVec.msb_eq_getLsbD_last, BitVec.msb_eq_getLsbD_last] at hmsb
  · have hbit := congrArg (·.getLsbD (k + 1)) hshift
    simpa only [BitVec.getLsbD_shiftLeft, show k + 1 < 24 by omega, decide_true, Nat.not_lt.mpr (Nat.le_add_left 1 k),
      decide_false, Bool.not_false, Bool.true_and, Nat.add_sub_cancel] using hbit

/-- The two values of a bit leave different registers. -/
theorem crcBit_not_ne (c : BitVec 24) (b : Bool) : crcBit c (!b) ≠ crcBit c b := by
  intro h
  have h0 := congrArg (·.getLsbD 0) h
  simp only [getLsbD_zero_crcBit, Bool.xor_right_inj] at h0
  exact Bool.not_ne_self b h0

/-- Over a fixed string, different registers stay different. -/
theorem crc24q_injective (S : BitString) : Function.Injective (crc24q · S) := by
  induction S with
  | nil => exact fun _ _ h => h
  | cons b S ih => exact fun c d h => crcBit_injective b (ih h)

/-- 24 bits bring the register to 0 exactly when they are the register's own. -/
theorem crc24q_bitsOf_eq_zero_iff (c r : BitVec 24) : crc24q c (bitsOf 24 r.toNat) = 0#24 ↔ c = r := by
  rw [← crc24q_self r]
  exact (crc24q_injective _).eq_iff

/-- The bits of two joined words are their bits in a row. -/
theorem bitsOf_append {w v : Nat} (x : BitVec w) (y : BitVec v) :
    bitsOf (w + v) (x ++ y).toNat = bitsOf w x.toNat ++ bitsOf v y.toNat := by
  refine List.ext_getElem (by simp) (fun i h _ => ?_)
  rw [length_bitsOf] at h
  rw [getElem_bitsOf, List.getElem_append, BitVec.testBit_toNat, BitVec.getLsbD_append]
  simp only [length_bitsOf, getElem_bitsOf, BitVec.testBit_toNat]
  by_cases hi : i < w
  · rw [dif_pos hi, if_neg (by omega), show w + v - 1 - i - v = w - 1 - i by omega]
  · rw [dif_neg hi, if_pos (by omega), show w + v - 1 - i = v - 1 - (i - w) by omega]

/-- The bits of three bytes are those of the 24-bit number they make. -/
theorem bytesToBits_triple (a b c : Byte) : bytesToBits [a, b, c] = bitsOf 24 (a ++ b ++ c).toNat := by
  simp only [bytesToBits_cons, bytesToBits_nil, List.append_nil, bitsOf_append (a ++ b) c, bitsOf_append a b, List.append_assoc]

/-- The checksum's three bytes hold its 24 bits (42_envelope.md R160). -/
theorem bytesToBits_crcBytes (c : BitVec 24) : bytesToBits (crcBytes c) = bitsOf 24 c.toNat := by
  have hjoin : c.extractLsb' 16 8 ++ c.extractLsb' 8 8 ++ c.extractLsb' 0 8 = c := by
    rw [BitVec.extractLsb'_append_extractLsb'_eq_extractLsb' (start₂ := 16) (start₁ := 8) (len₁ := 8) rfl,
      BitVec.extractLsb'_append_extractLsb'_eq_extractLsb' (start₂ := 8) (start₁ := 0) (len₁ := 8) rfl,
      BitVec.extractLsb'_eq_self]
  rw [crcBytes, bytesToBits_triple, hjoin]

/-- A run of reads in two parts. -/
theorem Memory.readBytes_add (m : Memory) (a n k : Nat) :
    m.readBytes a (n + k) = m.readBytes a n ++ m.readBytes (a + n) k := by
  refine List.ext_getElem (by simp) (fun i _ _ => ?_)
  rw [List.getElem_append]
  simp only [Memory.getElem_readBytes, Memory.length_readBytes]
  split
  · rfl
  · congr 1
    omega

/-- A received stream is the bits before its last 3 bytes, then the received checksum (41_crc.md R145). -/
theorem rxBits_eq_append {s : State} (h3 : 3 ≤ s.rxlen.toNat) :
    rxBits s = bytesToBits (s.rxb.readBytes 0 (s.rxlen.toNat - 3)) ++ bitsOf 24 (rxTrailingCrc s).toNat := by
  obtain ⟨n, hn⟩ : ∃ n, s.rxlen.toNat = n + 3 := ⟨s.rxlen.toNat - 3, by omega⟩
  rw [rxBits, rxBytes, rxTrailingCrc, hn, Memory.readBytes_add, bytesToBits_append, ← bytesToBits_triple]
  simp [Memory.readBytes]

/-- The checksums agree exactly when the residue of the whole stream is 0 (41_crc.md R146). -/
theorem rxComputedCrc_eq_iff {s : State} (h3 : 3 ≤ s.rxlen.toNat) :
    rxComputedCrc s = rxTrailingCrc s ↔ crc24q 0#24 (rxBits s) = 0#24 := by
  rw [rxBits_eq_append h3, crc24q_append, crc24q_bitsOf_eq_zero_iff]
  rfl

/-- VERIFY of a stream with residue 0 (41_crc.md R145). -/
theorem execVerify_of_residue {s : State} (h3 : 3 ≤ s.rxlen.toNat) (h : crc24q 0#24 (rxBits s) = 0#24) :
    execVerify s = complete s := by
  rw [execVerify, if_neg (by omega), if_neg (not_not.mpr ((rxComputedCrc_eq_iff h3).mpr h))]

/-- VERIFY of a stream with another residue (41_crc.md R145). -/
theorem execVerify_of_residue_ne {s : State} (h3 : 3 ≤ s.rxlen.toNat) (h : crc24q 0#24 (rxBits s) ≠ 0#24) :
    execVerify s = raiseResult .checksum s := by
  rw [execVerify, if_neg (by omega), if_pos (mt (rxComputedCrc_eq_iff h3).mp h)]

/-- PARSE of a stream with another residue (42_envelope.md R163 step 1). -/
theorem execParse_of_residue_ne {s : State} (elen : BitVec 10) (emsg : BitVec 12) (h6 : 6 ≤ s.rxlen.toNat)
    (h : crc24q 0#24 (rxBits s) ≠ 0#24) : execParse elen emsg s = raiseResult .checksum s := by
  rw [execParse, if_neg (by omega), if_pos (mt (rxComputedCrc_eq_iff (by omega)).mp h)]

end Sys2Proof.Machine

/-! ## Flips of one bit of a built frame (41_crc.md R146) -/

namespace Sys2Proof.Machine

/-- Flipping one bit of a string changes its CRC: the registers part at that bit, and stay different. -/
theorem crc24q_modify_not_ne (c : BitVec 24) {S : BitString} {j : Nat} (h : j < S.length) :
    crc24q c (S.modify j not) ≠ crc24q c S := by
  induction S generalizing c j with
  | nil => simp at h
  | cons b S ih =>
    cases j with
    | zero => exact (crc24q_injective S).ne (crcBit_not_ne c b)
    | succ j => exact ih (crcBit c b) (Nat.lt_of_succ_lt_succ h)

/-- The valid bits of FRB, by stream position (20_memory.md R49). -/
theorem bytesToBits_frBytes (s : State) : bytesToBits (frBytes s) = (List.range (8 * s.frlen.toNat)).map (frBit s) :=
  bytesToBits_readBytes s.frb _

/-- A built frame has residue 0 (41_crc.md R141 law 4, 42_envelope.md R161). -/
theorem crc24q_of_build {s t : State} (hs : Inv s) (hbuild : exec .build s = .next t) :
    crc24q 0#24 (bytesToBits (frBytes t)) = 0#24 := by
  rw [frBytes_of_build hs hbuild, bytesToBits_append, bytesToBits_bytesOf _ _ (length_frameBody hs.txlen_eq),
    bytesToBits_crcBytes, crc24q_append, crc24q_self]

/-- A built frame has at least the header and the checksum (42_envelope.md R160). -/
theorem frlen_of_build {s t : State} (hs : Inv s) (hbuild : exec .build s = .next t) : 6 ≤ t.frlen.toNat := by
  have hlen := congrArg List.length (frBytes_of_build hs hbuild)
  simp only [length_frBytes, List.length_append, length_bytesOf, crcBytes, List.length_cons, List.length_nil] at hlen
  omega

/-- RXB's stream is FRB's where every bit is the same. -/
theorem rxBits_of_same {t u : State} (hlen : u.rxlen = t.frlen) (h : ∀ p, p < 8 * t.frlen.toNat → rxBit u p = frBit t p) :
    rxBits u = bytesToBits (frBytes t) := by
  rw [rxBits_eq_map, bytesToBits_frBytes, hlen]
  exact List.map_congr_left fun p hp => h p (List.mem_range.mp hp)

/-- RXB's stream is FRB's with bit j flipped where the bits differ just there. -/
theorem rxBits_of_flip {t u : State} {j : Nat} (hlen : u.rxlen = t.frlen)
    (h : ∀ p, p < 8 * t.frlen.toNat → rxBit u p = (frBit t p ^^ decide (p = j))) :
    rxBits u = (bytesToBits (frBytes t)).modify j not := by
  rw [rxBits_eq_map, bytesToBits_frBytes, hlen]
  refine List.ext_getElem (by simp) (fun p hp _ => ?_)
  have hp8 : p < 8 * t.frlen.toNat := by simpa using hp
  rw [List.getElem_modify]
  simp only [List.getElem_map, List.getElem_range, h p hp8]
  by_cases hj : j = p
  · simp [hj]
  · simp [hj, Ne.symm hj]

/-- Settles O51: VERIFY and PARSE see the residue, which is 0 for the frame as built and no longer 0 once a bit is flipped. -/
theorem singleBitFlipsAreDetected : Obligations.SingleBitFlipsAreDetected := by
  intro s t u hs hbuild hlen
  have h6 := frlen_of_build hs hbuild
  rw [← hlen] at h6
  refine ⟨fun hsame => ?_, fun j hj hflip => ?_⟩
  · have hresidue : crc24q 0#24 (rxBits u) = 0#24 := by
      rw [rxBits_of_same hlen hsame, crc24q_of_build hs hbuild]
    exact (execVerify_of_residue (by omega) hresidue).trans (complete_eq_and u)
  · have hresidue : crc24q 0#24 (rxBits u) ≠ 0#24 := by
      have hne := crc24q_modify_not_ne 0#24 (S := bytesToBits (frBytes t)) (by rwa [length_bytesToBits, length_frBytes])
      rwa [← rxBits_of_flip hlen hflip, crc24q_of_build hs hbuild] at hne
    exact ⟨execVerify_of_residue_ne (by omega) hresidue, fun elen emsg => execParse_of_residue_ne elen emsg h6 hresidue⟩

end Sys2Proof.Machine

/-! ## The CRC as a remainder (41_crc.md R140) -/

namespace Sys2Proof.Machine

open Polynomial

/-- A bit as a constant polynomial. -/
noncomputable def gfBit (b : Bool) : (ZMod 2)[X] := if b then 1 else 0

@[simp] theorem gfBit_false : gfBit false = 0 := rfl

@[simp] theorem gfBit_true : gfBit true = 1 := rfl

/-- A bit string as a polynomial over GF(2), the first bit the highest coefficient: S(x) of R140. -/
noncomputable def gfPoly (S : BitString) : (ZMod 2)[X] := S.foldl (fun p b => p * X + gfBit b) 0

theorem gfBit_xor (a b : Bool) : gfBit (a ^^ b) = gfBit a + gfBit b := by
  cases a <;> cases b <;> simp [CharTwo.add_self_eq_zero]

theorem gfPoly_concat (S : BitString) (b : Bool) : gfPoly (S ++ [b]) = gfPoly S * X + gfBit b := by
  simp [gfPoly]

theorem gfPoly_cons (b : Bool) (S : BitString) : gfPoly (b :: S) = gfBit b * X ^ S.length + gfPoly S := by
  induction S using List.reverseRecOn with
  | nil => simp [gfPoly]
  | append_singleton S a ih =>
    rw [← List.cons_append, gfPoly_concat, gfPoly_concat, ih, List.length_append, List.length_singleton]
    ring

/-- Addition over GF(2) is XOR of the coefficients. -/
theorem gfPoly_bitsOf_xor (w a b : Nat) : gfPoly (bitsOf w (a ^^^ b)) = gfPoly (bitsOf w a) + gfPoly (bitsOf w b) := by
  induction w with
  | zero => simp [bitsOf, gfPoly]
  | succ w ih =>
    simp only [bitsOf, gfPoly_cons, length_bitsOf, Nat.testBit_xor, gfBit_xor, ih]
    ring

/-- The register as a polynomial: C(x) of R140. -/
noncomputable def gfReg (c : BitVec 24) : (ZMod 2)[X] := gfPoly (bitsOf 24 c.toNat)

theorem gfReg_xor (c d : BitVec 24) : gfReg (c ^^^ d) = gfReg c + gfReg d := by
  rw [gfReg, BitVec.toNat_xor, gfPoly_bitsOf_xor]
  rfl

/-- A 0 bit after the register's bits: the top bit, then the bits of the register shifted. -/
theorem bitsOf_concat_false (c : BitVec 24) : bitsOf 24 c.toNat ++ [false] = c.msb :: bitsOf 24 (c <<< 1).toNat := by
  have hjoin : (c ++ 0#1 : BitVec (1 + 24)) = BitVec.ofBool c.msb ++ c <<< 1 := by
    refine BitVec.eq_of_getLsbD_eq fun k hk => ?_
    simp only [BitVec.getLsbD_append, BitVec.getLsbD_shiftLeft, BitVec.getLsbD_ofBool, BitVec.msb_eq_getLsbD_last]
    grind
  calc bitsOf 24 c.toNat ++ [false]
    _ = bitsOf (1 + 24) (c ++ 0#1 : BitVec (1 + 24)).toNat := (bitsOf_append c 0#1).symm
    _ = bitsOf 1 (BitVec.ofBool c.msb).toNat ++ bitsOf 24 (c <<< 1).toNat := by rw [hjoin, bitsOf_append]
    _ = c.msb :: bitsOf 24 (c <<< 1).toNat := by cases c.msb <;> rfl

/-- A shift multiplies by x, and the top bit is the x^24 term that leaves the register. -/
theorem gfReg_mul_X (c : BitVec 24) : gfReg c * X = gfBit c.msb * X ^ 24 + gfReg (c <<< 1) := by
  have h := congrArg gfPoly (bitsOf_concat_false c)
  rw [gfPoly_concat, gfPoly_cons, length_bitsOf] at h
  rw [gfReg, gfReg, ← h, gfBit_false, add_zero]

/-- P(x) of R140, 0x1864CFB. -/
noncomputable def crcPoly : (ZMod 2)[X] := gfPoly (bitsOf 25 0x1864CFB)

/-- The feedback word is P(x) without its x^24 term (41_crc.md R140). -/
theorem crcPoly_eq : crcPoly = X ^ 24 + gfReg Config.polyLow := by
  have h : bitsOf 25 0x1864CFB = true :: bitsOf 24 Config.polyLow.toNat := by decide
  rw [crcPoly, h, gfPoly_cons, length_bitsOf]
  simp [gfReg]

/-- One update takes C(x) to x C(x) + b x^24, less P(x) where a bit is fed back. -/
theorem gfReg_crcBit (c : BitVec 24) (b : Bool) :
    gfReg (crcBit c b) = gfReg c * X + gfBit b * X ^ 24 + gfBit (c.msb ^^ b) * crcPoly := by
  have hreg : gfReg (crcBit c b) = gfReg (c <<< 1) + gfBit (c.msb ^^ b) * gfReg Config.polyLow := by
    unfold crcBit
    cases c.msb ^^ b <;> simp [gfReg_xor]
  have hself (p : (ZMod 2)[X]) : p + p = 0 := CharTwo.add_self_eq_zero p
  rw [hreg, gfReg_mul_X, crcPoly_eq, gfBit_xor]
  linear_combination -hself (gfBit c.msb * X ^ 24) - hself (gfBit b * X ^ 24)

/-- The division of R140: the quotient grows by one term for each bit fed. -/
theorem exists_quotient (S : BitString) : ∃ q, gfPoly S * X ^ 24 = q * crcPoly + gfReg (crc24q 0#24 S) := by
  induction S using List.reverseRecOn with
  | nil => exact ⟨0, by simp [gfPoly, gfReg, bitsOf]⟩
  | append_singleton S b ih =>
    obtain ⟨q, hq⟩ := ih
    refine ⟨q * X - gfBit ((crc24q 0#24 S).msb ^^ b), ?_⟩
    have hstep : crc24q 0#24 (S ++ [b]) = crcBit (crc24q 0#24 S) b := crc24q_append _ _ _
    rw [hstep, gfReg_crcBit, gfPoly_concat]
    linear_combination X * hq

/-- Settles O45. -/
theorem crcIsTheRemainderModuloPoly : Obligations.CrcIsTheRemainderModuloPoly := exists_quotient

end Sys2Proof.Machine

/-! ## Bit strings of bytes, in parts -/

namespace Sys2Proof.Machine

/-- The high w and the low v of a number's w + v low bits (00_scope.md R9). -/
theorem bitsOf_add (w v x : Nat) : bitsOf (w + v) x = bitsOf w (x / 2 ^ v) ++ bitsOf v x := by
  induction w with
  | zero => rw [Nat.zero_add]; rfl
  | succ w ih => rw [Nat.succ_add, bitsOf, bitsOf, ih, Nat.testBit_div_two_pow, List.cons_append]

/-- `bits_w(v)` reads v modulo 2^w (00_scope.md R9). -/
theorem bitsOf_mod (w x : Nat) : bitsOf w (x % 2 ^ w) = bitsOf w x := by
  have h := bitsOf_valOf (bitsOf w x)
  rwa [length_bitsOf, valOf_bitsOf] at h

/-- Packing bits that begin with whole bytes gives those bytes, then the rest packed (00_scope.md R10). -/
theorem bytesOf_bytesToBits_append (B : List Byte) (k : Nat) (S : BitString) :
    bytesOf (B.length + k) (bytesToBits B ++ S) = B ++ bytesOf k S := by
  induction B with
  | nil => rw [List.length_nil, Nat.zero_add]; rfl
  | cons b B ih =>
    rw [List.length_cons, Nat.add_right_comm, bytesOf, bytesToBits_cons, List.append_assoc,
      List.take_left' (length_bitsOf 8 _), List.drop_left' (length_bitsOf 8 _), ih, valOf_bitsOf, Nat.mod_eq_of_lt b.isLt,
      BitVec.ofNat_toNat, BitVec.setWidth_eq, List.cons_append]

/-- Zeros appended to a string are what is read past its end. -/
theorem getD_append_zeros (S : BitString) (k p : Nat) : (S ++ zeros k).getD p false = S.getD p false := by
  by_cases h : p < S.length
  · exact List.getD_append _ _ _ _ h
  · rw [List.getD_append_right _ _ _ _ (by omega), List.getD_eq_default S _ (by omega)]
    simp [zeros]

end Sys2Proof.Machine

/-! ## What BUILD writes, and a second BUILD (42_envelope.md R161, 70_reset_and_hazards.md R241) -/

namespace Sys2Proof.Machine

/-- The bytes that BUILD writes to FRB: the packed body and its checksum (42_envelope.md R161). -/
def builtFrame (s : State) : List Byte :=
  bytesOf (ceilBytes s.txlen.toNat + 3) (frameBody s) ++ crcBytes (crc24q 0#24 (frameBody s))

/-- All that BUILD does (42_envelope.md R161). -/
theorem exec_build_eq (s : State) :
    exec .build s = .next { s with
      frb := s.frb.writeBytes 0 (builtFrame s)
      frlen := BitVec.ofNat 11 (ceilBytes s.txlen.toNat + 6)
      crc := crc24q 0#24 (frameBody s)
      status := s.status &&& 0xFFFFFFF0#32 } := by
  have h : exec .build s = complete ((s.setFr (s.frb.writeBytes 0 (builtFrame s))
    (BitVec.ofNat 11 (ceilBytes s.txlen.toNat + 6))).setCrc (crc24q 0#24 (frameBody s))) := rfl
  simp only [h, complete_eq_and, State.setFr, State.setCrc, State.setStatus]

@[simp] theorem length_builtFrame (s : State) : (builtFrame s).length = ceilBytes s.txlen.toNat + 6 := by
  simp [builtFrame, crcBytes]

/-- A list of bytes written twice is written once. -/
theorem Memory.writeBytes_writeBytes_same {m : Memory} (h : m.wf) (a : Nat) (B : List Byte) :
    (m.writeBytes a B).writeBytes a B = m.writeBytes a B := by
  have h1 := Memory.wf_writeBytes m a B h
  refine Memory.eq_of_read_eq _ _ (Memory.wf_writeBytes _ _ _ h1) h1 fun b => ?_
  by_cases hb : b < a ∨ a + B.length ≤ b
  · rw [Memory.read_writeBytes_other _ _ _ _ hb]
  · obtain ⟨i, rfl⟩ : ∃ i, b = a + i := ⟨b - a, by omega⟩
    rw [Memory.read_writeBytes _ _ _ _ (by omega) h1, Memory.read_writeBytes _ _ _ _ (by omega) h]

/-- The bytes depend on the payload only. -/
theorem builtFrame_congr {s t : State} (hb : t.txb = s.txb) (hl : t.txlen = s.txlen) :
    frameBody t = frameBody s ∧ builtFrame t = builtFrame s := by
  simp only [builtFrame, frameBody, paddedPayload, hb, hl, and_self]

/-- Settles O49: BUILD leaves the payload, so the second one writes the bytes, the length and the checksum that stand there. -/
theorem buildTwiceGivesTheSameState : Obligations.BuildTwiceGivesTheSameState := by
  intro s t hs hbuild
  rw [exec_build_eq] at hbuild ⊢
  have htxb : t.txb = s.txb := by cases hbuild; rfl
  have htxlen : t.txlen = s.txlen := by cases hbuild; rfl
  obtain ⟨hbody, hframe⟩ := builtFrame_congr htxb htxlen
  rw [hbody, hframe, htxlen]
  obtain rfl := Host.Outcome.next.inj hbuild
  simp only [Memory.writeBytes_writeBytes_same hs.frb_wf, BitVec.and_assoc, BitVec.and_self]

end Sys2Proof.Machine

/-! ## The built frame, part by part (42_envelope.md R160, R161) -/

namespace Sys2Proof.Machine

/-- The header of a frame as bytes (42_envelope.md R160). -/
theorem headerBits_eq_bytesToBits {n : Nat} (h : n < 1024) :
    headerBits n = bytesToBits [0xD3#8, BitVec.ofNat 8 (n / 256), BitVec.ofNat 8 n] := by
  have hhigh : bitsOf 8 (n / 256) = zeros 6 ++ bitsOf 2 (n / 256) := by
    rw [bitsOf_add 6 2, Nat.div_eq_of_lt (by omega)]
    rfl
  have hfield : headerBits n = bitsOf 8 0xD3 ++ zeros 6 ++ (bitsOf 2 (n / 256) ++ bitsOf 8 n) :=
    congrArg (bitsOf 8 0xD3 ++ zeros 6 ++ ·) (bitsOf_add 2 8 n)
  simp only [hfield, bytesToBits_cons, bytesToBits_nil, BitVec.toNat_ofNat, bitsOf_mod, hhigh, List.append_assoc,
    List.append_nil]

/-- Bit p of FRB, among the valid bits (20_memory.md R49). -/
theorem frBit_eq_getD (s : State) {p : Nat} (h : p < 8 * s.frlen.toNat) : frBit s p = (bytesToBits (frBytes s)).getD p false := by
  rw [bytesToBits_frBytes, List.getD_eq_getElem _ _ (by simpa using h)]
  simp

section Build
variable {s t : State}

/-- FRLEN after BUILD does not wrap (42_envelope.md R161). -/
theorem toNat_frlen_of_build (hs : Inv s) (hbuild : exec .build s = .next t) :
    t.frlen.toNat = ceilBytes s.txlen.toNat + 6 := by
  have hlen := congrArg List.length (frBytes_of_build hs hbuild)
  simpa [crcBytes] using hlen

/-- The valid bits of FRB after BUILD: the body, then the 24 bits of its checksum (42_envelope.md R160). -/
theorem frBits_of_build (hs : Inv s) (hbuild : exec .build s = .next t) :
    bytesToBits (frBytes t) = frameBody s ++ bitsOf 24 (crc24q 0#24 (frameBody s)).toNat := by
  rw [frBytes_of_build hs hbuild, bytesToBits_append, bytesToBits_bytesOf _ _ (length_frameBody hs.txlen_eq), bytesToBits_crcBytes]

/-- The first three bytes of FRB after BUILD (42_envelope.md R160). -/
theorem header_of_build (hs : Inv s) (hbuild : exec .build s = .next t) :
    t.frb.read 0 = 0xD3#8 ∧ t.frb.read 1 = BitVec.ofNat 8 (ceilBytes s.txlen.toNat / 256) ∧
      t.frb.read 2 = BitVec.ofNat 8 (ceilBytes s.txlen.toNat) := by
  have hn := ceilBytes_le hs.txlen_le
  have hbody : bytesOf (ceilBytes s.txlen.toNat + 3) (frameBody s) =
      [0xD3#8, BitVec.ofNat 8 (ceilBytes s.txlen.toNat / 256), BitVec.ofNat 8 (ceilBytes s.txlen.toNat)] ++
        bytesOf (ceilBytes s.txlen.toNat) (paddedPayload s) := by
    rw [frameBody, headerBits_eq_bytesToBits (by omega), Nat.add_comm _ 3]
    exact bytesOf_bytesToBits_append [_, _, _] _ _
  have h := frBytes_of_build hs hbuild
  rw [hbody, frBytes, toNat_frlen_of_build hs hbuild] at h
  simp only [Memory.readBytes, List.cons_append, List.cons.injEq] at h
  obtain ⟨h0, h1, h2, -⟩ := h
  exact ⟨h0, h1, h2⟩

/-- The payload bits of FRB after BUILD: TXB, with zeros behind (42_envelope.md R161). -/
theorem frBit_payload_of_build (hs : Inv s) (hbuild : exec .build s = .next t) {p : Nat} (hp : p < 8 * ceilBytes s.txlen.toNat) :
    frBit t (24 + p) = s.txb.getD p false := by
  have hbody := length_frameBody hs.txlen_eq
  rw [frBit_eq_getD t (by rw [toNat_frlen_of_build hs hbuild]; omega), frBits_of_build hs hbuild,
    List.getD_append _ _ _ _ (by omega), frameBody, List.getD_append_right _ _ _ _ (by simp), length_headerBits,
    Nat.add_sub_cancel_left, paddedPayload, getD_append_zeros]

/-- The bits before the checksum are those it was computed from (42_envelope.md R161). -/
theorem frBits_body_of_build (hs : Inv s) (hbuild : exec .build s = .next t) :
    (List.range (8 * (ceilBytes s.txlen.toNat + 3))).map (frBit t) = frameBody s := by
  have h := frBits_of_build hs hbuild
  rw [bytesToBits_frBytes, toNat_frlen_of_build hs hbuild, show 8 * (ceilBytes s.txlen.toNat + 6) =
    8 * (ceilBytes s.txlen.toNat + 3) + 24 by omega, List.range_add, List.map_append] at h
  exact List.append_inj_left h (by simp [length_frameBody hs.txlen_eq])

/-- The last 24 bits are the checksum's, CRC[23] first (42_envelope.md R160). -/
theorem frBit_checksum_of_build (hs : Inv s) (hbuild : exec .build s = .next t) {p : Nat} (hp : p < 24) :
    frBit t (8 * (ceilBytes s.txlen.toNat + 3) + p) = (crc24q 0#24 (frameBody s)).getLsbD (23 - p) := by
  have hbody := length_frameBody hs.txlen_eq
  rw [frBit_eq_getD t (by rw [toNat_frlen_of_build hs hbuild]; omega), frBits_of_build hs hbuild,
    List.getD_append_right _ _ _ _ (by omega), hbody, Nat.add_sub_cancel_left, List.getD_eq_getElem _ _ (by rwa [length_bitsOf]),
    getElem_bitsOf, BitVec.testBit_toNat]

end Build

/-- Settles O47, the frame part by part: header, payload, checksum, and the bytes of FRB behind it. -/
theorem buildWritesTheFrame : Obligations.BuildWritesTheFrame := by
  refine ⟨rfl, ?_⟩
  intro s hs n
  have hn : n ≤ 1023 := ceilBytes_le hs.txlen_le
  obtain ⟨t, hbuild⟩ : ∃ t, exec .build s = .next t := ⟨_, exec_build_eq s⟩
  have ht := Host.Outcome.next.inj (hbuild.symm.trans (exec_build_eq s))
  have hcrc : t.crc = crc24q 0#24 (frameBody s) := by rw [ht]
  have hfrb : t.frb = s.frb.writeBytes 0 (builtFrame s) := by rw [ht]
  obtain ⟨h0, h1, h2⟩ := header_of_build hs hbuild
  refine ⟨t, hbuild, ?_, ?_, h0, ?_, ?_, fun p hp => frBit_payload_of_build hs hbuild hp, ?_, fun p hp => ?_, fun a ha => ?_⟩
  · rw [hcrc, hfrb, ht]
    rfl
  · rw [toNat_frlen_of_build hs hbuild]
    change n + 6 = 3 + n + 3
    omega
  · rw [h1, BitVec.toNat_ofNat]
    exact Nat.mod_eq_of_lt (by change n / 256 < 256; omega)
  · rw [h2, BitVec.toNat_ofNat]
    rfl
  · rw [hcrc, ← frBits_body_of_build hs hbuild]
    rfl
  · rw [hcrc]
    exact frBit_checksum_of_build hs hbuild hp
  · rw [hfrb]
    exact Memory.read_writeBytes_other _ _ _ _ (.inr (by rw [length_builtFrame]; change 0 + (n + 6) ≤ a; omega))

end Sys2Proof.Machine

/-! ## PARSE (42_envelope.md R163) -/

namespace Sys2Proof

/-- Two joined words as a number. -/
theorem toNat_append_eq_add {w v : Nat} (x : BitVec w) (y : BitVec v) : (x ++ y).toNat = x.toNat * 2 ^ v + y.toNat := by
  rw [BitVec.toNat_append, ← Nat.shiftLeft_add_eq_or_of_lt y.isLt, Nat.shiftLeft_eq]

/-- The word of format P: OP, ELEN in [25:16] and EMSG in [15:4] (30_encoding.md R72). -/
theorem formatP_eq (op : BitVec 6) (elen : BitVec 10) (emsg : BitVec 12) :
    formatP op elen emsg = formatN op ||| BitVec.ofNat 32 (elen.toNat * 2 ^ 16 + emsg.toNat * 2 ^ 4) := by
  have helen := elen.isLt
  have hemsg := emsg.isLt
  have hlow : elen.toNat * 2 ^ 16 + emsg.toNat * 2 ^ 4 < 2 ^ 26 := by omega
  have hN : (formatN op).toNat = op.toNat <<< 26 := by
    rw [formatN, toNat_append_eq_add, Nat.shiftLeft_eq, BitVec.toNat_zero, Nat.add_zero]
  have hP : (formatP op elen emsg).toNat = op.toNat * 2 ^ 26 + (elen.toNat * 2 ^ 16 + emsg.toNat * 2 ^ 4) := by
    rw [formatP, toNat_append_eq_add, toNat_append_eq_add, toNat_append_eq_add, BitVec.toNat_ofNat]
    omega
  refine BitVec.eq_of_toNat_eq ?_
  rw [hP, BitVec.toNat_or, hN, BitVec.toNat_ofNat, Nat.mod_eq_of_lt (by omega), ← Nat.shiftLeft_add_eq_or_of_lt hlow,
    Nat.shiftLeft_eq]

end Sys2Proof

namespace Sys2Proof.Machine

/-- The field at p, where the string begins with p bits and then the field (00_scope.md R9). -/
theorem slice_of_isPrefix {R S T : BitString} {p w : Nat} (h : S ++ T <+: R) (hp : S.length = p) (hw : T.length = w) :
    slice p w R = T := by
  obtain ⟨U, rfl⟩ := h
  subst hp hw
  exact slice_append S T U

section Fields
variable {s : State}

/-- RXB's stream begins with the bits of its first five bytes (20_memory.md R48). -/
theorem rxBits_eq_first_bytes (h5 : 5 ≤ s.rxlen.toNat) :
    ∃ rest, rxBits s = bitsOf 8 (s.rxb.read 0).toNat ++ bitsOf 8 (s.rxb.read 1).toNat ++ bitsOf 8 (s.rxb.read 2).toNat ++
      bitsOf 8 (s.rxb.read 3).toNat ++ bitsOf 8 (s.rxb.read 4).toNat ++ rest := by
  obtain ⟨n, hn⟩ : ∃ n, s.rxlen.toNat = 5 + n := ⟨s.rxlen.toNat - 5, by omega⟩
  refine ⟨bytesToBits (s.rxb.readBytes 5 n), ?_⟩
  rw [rxBits, rxBytes, hn, Memory.readBytes_add, bytesToBits_append]
  simp only [Memory.readBytes, bytesToBits_cons, bytesToBits_nil, List.append_nil, List.append_assoc]

/-- The length field, in byte values (42_envelope.md R163 step 2). -/
theorem toNat_rxLengthField (h5 : 5 ≤ s.rxlen.toNat) :
    (rxLengthField s).toNat = (s.rxb.read 1).toNat % 4 * 256 + (s.rxb.read 2).toNat := by
  obtain ⟨rest, hbits⟩ := rxBits_eq_first_bytes h5
  have h1 : bitsOf 8 (s.rxb.read 1).toNat = bitsOf 6 ((s.rxb.read 1).toNat / 4) ++ bitsOf 2 (s.rxb.read 1).toNat := bitsOf_add 6 2 _
  have hfield : slice 14 10 (rxBits s) = bitsOf 2 (s.rxb.read 1).toNat ++ bitsOf 8 (s.rxb.read 2).toNat :=
    slice_of_isPrefix (S := bitsOf 8 (s.rxb.read 0).toNat ++ bitsOf 6 ((s.rxb.read 1).toNat / 4))
      ⟨bitsOf 8 (s.rxb.read 3).toNat ++ bitsOf 8 (s.rxb.read 4).toNat ++ rest, by simp only [hbits, h1, List.append_assoc]⟩
      (by simp) (by simp)
  have hlt2 := (s.rxb.read 2).isLt
  rw [rxLengthField, hfield, valOf_append, valOf_bitsOf, valOf_bitsOf, length_bitsOf, BitVec.toNat_ofNat]
  omega

/-- The message number, in byte values (42_envelope.md R163 step 3). -/
theorem toNat_rxMessageNumber (h5 : 5 ≤ s.rxlen.toNat) :
    (rxMessageNumber s).toNat = (s.rxb.read 3).toNat * 16 + (s.rxb.read 4).toNat / 16 := by
  obtain ⟨rest, hbits⟩ := rxBits_eq_first_bytes h5
  have h4 : bitsOf 8 (s.rxb.read 4).toNat = bitsOf 4 ((s.rxb.read 4).toNat / 16) ++ bitsOf 4 (s.rxb.read 4).toNat := bitsOf_add 4 4 _
  have hfield : slice 24 12 (rxBits s) = bitsOf 8 (s.rxb.read 3).toNat ++ bitsOf 4 ((s.rxb.read 4).toNat / 16) :=
    slice_of_isPrefix (S := bitsOf 8 (s.rxb.read 0).toNat ++ bitsOf 8 (s.rxb.read 1).toNat ++ bitsOf 8 (s.rxb.read 2).toNat)
      ⟨bitsOf 4 (s.rxb.read 4).toNat ++ rest, by simp only [hbits, h4, List.append_assoc]⟩ (by simp) (by simp)
  have hlt3 := (s.rxb.read 3).isLt
  have hlt4 := (s.rxb.read 4).isLt
  rw [rxMessageNumber, hfield, valOf_append, valOf_bitsOf, valOf_bitsOf, length_bitsOf, BitVec.toNat_ofNat]
  omega

end Fields

/-- Settles O48: the branches of PARSE in their order, each field read as the number its bytes make. -/
theorem parseValidatesInOrder : Obligations.ParseValidatesInOrder := by
  intro elen emsg s n c r L M rest
  refine ⟨formatP_eq 0x21#6 elen emsg, ?_⟩
  have hmismatch : rxComputedCrc s ≠ rxTrailingCrc s ↔ c.toNat ≠ r := by
    rw [Ne, ← BitVec.toNat_inj, rxComputedCrc_eq_map, toNat_rxTrailingCrc]
  change execParse elen emsg s = _
  unfold execParse
  by_cases hshort : n < 6
  · rw [if_pos hshort, if_pos hshort]
    rfl
  have hL : (rxLengthField s).toNat = L := toNat_rxLengthField (by omega)
  have hM : (rxMessageNumber s).toNat = M := toNat_rxMessageNumber (by omega)
  have hlength : rxLengthField s ≠ elen ↔ L ≠ elen.toNat := by rw [Ne, ← BitVec.toNat_inj, hL]
  have hnumber : rxMessageNumber s ≠ emsg ↔ M ≠ emsg.toNat := by rw [Ne, ← BitVec.toNat_inj, hM]
  rw [if_neg hshort, if_neg hshort]
  by_cases hcrc : c.toNat ≠ r
  · rw [if_pos (hmismatch.mpr hcrc), if_pos hcrc]
    rfl
  rw [if_neg (mt hmismatch.mp hcrc), if_neg hcrc]
  by_cases hlen : L ≠ elen.toNat
  · rw [if_pos (hlength.mpr hlen), if_pos hlen]
    rfl
  rw [if_neg (mt hlength.mp hlen), if_neg hlen]
  by_cases hmsg : M ≠ emsg.toNat
  · rw [if_pos (hnumber.mpr hmsg), if_pos hmsg]
    rfl
  rw [if_neg (mt hnumber.mp hmsg), if_neg hmsg, complete_eq_and, ← hL, ← hM, BitVec.ofNat_toNat, BitVec.ofNat_toNat,
    BitVec.setWidth_eq, BitVec.setWidth_eq]
  rfl

end Sys2Proof.Machine

/-! ## A built and looped frame verifies and parses (41_crc.md R145, 42_envelope.md R163) -/

namespace Sys2Proof.Machine

/-- PARSE of a stream with residue 0, with the stream's own length and message number (42_envelope.md R163). -/
theorem execParse_of_residue {s : State} (h6 : 6 ≤ s.rxlen.toNat) (h : crc24q 0#24 (rxBits s) = 0#24) :
    execParse (rxLengthField s) (rxMessageNumber s) s =
      complete ((s.setParsed (rxMessageNumber s) (rxLengthField s)).setCur 36#14) := by
  rw [execParse, if_neg (by omega), if_neg (not_not.mpr ((rxComputedCrc_eq_iff (by omega)).mpr h)), if_neg (not_not.mpr rfl),
    if_neg (not_not.mpr rfl)]

/-- LOOP leaves RC = OK (40_bitfield.md R113). -/
theorem status_of_loop {t u : State} (hloop : exec .loop t = .next u) : u.status &&& 0xFFFFFFF0#32 = u.status := by
  have h : exec .loop t = complete ((t.setRx (t.rxb.writeBytes 0 (frBytes t)) t.frlen).setCur 0#14) := rfl
  rw [h, complete_eq_and] at hloop
  cases hloop
  rw [State.setStatus_status, BitVec.and_assoc, BitVec.and_self]

/-- RXLEN after LOOP (40_bitfield.md R113). -/
theorem rxlen_of_loop {t u : State} (hloop : exec .loop t = .next u) : u.rxlen = t.frlen := by
  cases hloop
  rfl

section BuildLoop
variable {s t u : State}

/-- A built and looped frame has residue 0 (41_crc.md R141 law 4). -/
theorem residue_of_build_loop (hs : Inv s) (hbuild : exec .build s = .next t) (hloop : exec .loop t = .next u) :
    crc24q 0#24 (rxBits u) = 0#24 := by
  rw [rxBits, rxBytes_of_loop (inv_exec hs hbuild).rxb_wf hloop, crc24q_of_build hs hbuild]

/-- The stream of a built and looped frame begins with the header and the payload (42_envelope.md R161). -/
theorem header_payload_isPrefix_of_build_loop (hs : Inv s) (hbuild : exec .build s = .next t) (hloop : exec .loop t = .next u) :
    headerBits (ceilBytes s.txlen.toNat) ++ s.txb <+: rxBits u := by
  rw [rxBits_of_build_loop hs hbuild hloop, frameBody, paddedPayload, ← List.append_assoc, List.append_assoc _ (zeros _)]
  exact List.prefix_append _ _

/-- The length field of a built and looped frame is its payload's byte count (42_envelope.md R161, R163). -/
theorem rxLengthField_of_build_loop (hs : Inv s) (hbuild : exec .build s = .next t) (hloop : exec .loop t = .next u) :
    rxLengthField u = BitVec.ofNat 10 (ceilBytes s.txlen.toNat) := by
  have hn : ceilBytes s.txlen.toNat < 2 ^ Config.lenBits := Nat.lt_succ_of_le (ceilBytes_le hs.txlen_le)
  have hheader : headerBits (ceilBytes s.txlen.toNat) <+: rxBits u :=
    (List.prefix_append _ _).trans (header_payload_isPrefix_of_build_loop hs hbuild hloop)
  rw [rxLengthField, slice_of_isPrefix hheader (by simp [Config.reservedBits]) (length_bitsOf _ _), valOf_bitsOf,
    Nat.mod_eq_of_lt hn]

/-- The message number of a built and looped frame is the first 12 bits of its payload (42_envelope.md R161, R163). -/
theorem rxMessageNumber_of_build_loop (hs : Inv s) (hbuild : exec .build s = .next t) (hloop : exec .loop t = .next u)
    (h12 : 12 ≤ s.txb.length) : rxMessageNumber u = BitVec.ofNat 12 (valOf (s.txb.take 12)) := by
  have hnumber : headerBits (ceilBytes s.txlen.toNat) ++ s.txb.take 12 <+: rxBits u :=
    ((List.prefix_append_right_inj _).mpr (List.take_prefix 12 _)).trans (header_payload_isPrefix_of_build_loop hs hbuild hloop)
  rw [rxMessageNumber, slice_of_isPrefix hnumber (by simp) (by simpa using h12)]

end BuildLoop

/-- Settles O50: the residue is 0, so both commands pass the checksum; PARSE then compares the header's own length and the payload's
own first bits, and RC = OK stands already. -/
theorem builtFrameVerifiesAndParses : Obligations.BuiltFrameVerifiesAndParses := by
  intro s t u hs hbuild hloop
  have hresidue := residue_of_build_loop hs hbuild hloop
  have hstatus := status_of_loop hloop
  have h6 : 6 ≤ u.rxlen.toNat := rxlen_of_loop hloop ▸ frlen_of_build hs hbuild
  refine ⟨?_, ?_⟩
  · refine (execVerify_of_residue (by omega) hresidue).trans ?_
    rw [complete_eq_and, hstatus]
    rfl
  · intro h12 n m
    have hlength : rxLengthField u = BitVec.ofNat 10 n := rxLengthField_of_build_loop hs hbuild hloop
    have hnumber : rxMessageNumber u = m := rxMessageNumber_of_build_loop hs hbuild hloop (hs.txlen_eq ▸ h12)
    have hparse := execParse_of_residue h6 hresidue
    rw [hlength, hnumber] at hparse
    refine hparse.trans ?_
    rw [complete_eq_and, State.setCur_status, State.setParsed_status, hstatus]
    rfl

end Sys2Proof.Machine

/-! ## The control commands (43_control.md R180, R181) -/

namespace Sys2Proof.Machine

/-- Settles O24: NOP is completion alone. -/
theorem nopOnlySetsRcOk : Obligations.NopOnlySetsRcOk :=
  ⟨rfl, complete_eq_and⟩

/-- Settles O25: DCLR stores nothing but STATUS, whose new value `exec_dclr_status` gives. -/
theorem dclrClearsTheFourWarnings : Obligations.DclrClearsTheFourWarnings := by
  refine ⟨rfl, fun s => ?_⟩
  have hframe : exec .dclr s = .next (s.setStatus (setRc .ok (clearWarnings s)).status) := rfl
  have hstatus : (setRc .ok (clearWarnings s)).status = s.status &&& 0xFFFFF0F0#32 := exec_dclr_status rfl
  rw [hframe, hstatus]
  rfl

end Sys2Proof.Machine

/-! ## Completion, result codes and the idle block (60_exceptions.md R200, R202, R216) -/

namespace Sys2Proof.Machine

/-- The result codes that each command can leave (60_exceptions.md R202). -/
theorem CommandEffect.code_eq_or {s u : State} {i : Instr} {c : ResultCode} (e : CommandEffect s i c u) :
    c = .ok ∨ (i = .verify ∧ (c = .checksum ∨ c = .short)) ∨
      ∃ elen emsg, i = .parse elen emsg ∧ (c = .checksum ∨ c = .length ∨ c = .msgtype ∨ c = .short) := by
  cases e with
  | verify _ hc => exact hc.imp_right fun h => .inl ⟨rfl, h.symm⟩
  | parseFailed elen emsg _ hc =>
    refine .inr (.inr ⟨elen, emsg, rfl, ?_⟩)
    cases c <;> simp at hc ⊢
  | _ => exact .inl rfl

/-- Settles O6: a legal word has one of its command's effects, which all keep DIN and the host's side, and a rejected word writes STATUS
only. -/
theorem everyCommandWordCompletes : Obligations.EveryCommandWordCompletes := by
  intro v s
  cases hd : decode v with
  | illegal why => exact ⟨_, runCommand_illegal v why s hd, rfl, rfl, rfl, rfl⟩
  | command i =>
    obtain ⟨c, u, hu, e⟩ := exec_hasEffect i s
    exact ⟨setRc c u, (runCommand_command v i s hd).trans hu, e.host_side_eq⟩

/-- Settles O19: RC reads as the number of the code that the command left, and the codes of each command are in its effects. -/
theorem resultCodesComeOnlyFromTheirCommands : Obligations.ResultCodesComeOnlyFromTheirCommands := by
  intro i s t h
  obtain ⟨c, u, rfl, e⟩ := effect_of_exec h
  rw [setRc_status, statusWithRc_rc]
  rcases e.code_eq_or with rfl | ⟨hi, hc⟩ | ⟨elen, emsg, hi, hc⟩
  · exact .inl rfl
  · exact .inr (.inl ⟨hi, hc.imp (congrArg resultNumber) (congrArg resultNumber)⟩)
  · refine .inr (.inr ⟨elen, emsg, hi, ?_⟩)
    rcases hc with rfl | rfl | rfl | rfl <;> simp [resultNumber]

/-- Settles O17: past the end of the host's list no action is pending (log 7). -/
theorem idleStepChangesNothing : Obligations.IdleStepChangesNothing :=
  fun s h => step_of_none s (List.getElem?_eq_none h.ge)

end Sys2Proof.Machine

/-! ## The platform's reset (70_reset_and_hazards.md R230) -/

namespace Sys2Proof.Machine

/-- Performing the reset answers the registers of `State.reset`, with the host's side of the port as it stood (log 8). -/
theorem perform_reset (s : State) :
    perform .reset s = .next { State.reset with script := s.script, pc := s.pc, replies := s.replies } := rfl

/-- Settles O16: the step performs the reset past the action in the list, which leaves the list and the replies alone. -/
theorem platformResetRestoresEveryRegister : Obligations.PlatformResetRestoresEveryRegister := by
  intro s h
  rw [step_of_action s _ h, perform_reset, State.advance_script, State.advance_pc, State.advance_replies]

end Sys2Proof.Machine
